-- ==== Sys2Proof/Word.lean ====
section
/-! DEFINITION. The block's word types (00_scope.md R8, R9): bytes, the 16-bit operation word, 32-bit operands. -/

namespace Sys2Proof

/-- A byte, `u8` of R10. -/
abbrev Byte := BitVec 8

/-- An operation word, `op[15:12] sub[11:8] imm[7:0]` (30_encoding.md R61). -/
abbrev OpWord := BitVec 16

/-- A `u32` operand or register: baud rate and timeout (R8). -/
abbrev Word32 := BitVec 32

end Sys2Proof
end

