-- ==== Sys2Proof/Syntax.lean ====
section
/-! DEFINITION. The operations of the block, one constructor for each of the 29 rows of the opcode map (30_encoding.md
R63), and the transaction in which the client issues one (R61). -/

namespace Sys2Proof

/-- A transaction of the client: the operation word and its operand list, as mathematical integers in order (R61, R62).
A byte list is as many operands as it has bytes. -/
structure Transaction where
  word : OpWord
  operands : List Int
  deriving DecidableEq, Repr

/-- An operation with its operands. PUT operands are the integers they name (R62); `encode` holds LEN and the payload. -/
inductive Instr where
  -- LINK
  | linkOpen (baud : Word32) (parity databits stop : Byte)
  | linkWrite (bytes : List Byte)
  | linkSetTimeout (ms : Word32)
  | linkPulseReset
  | linkClose
  -- RXB
  | rxReadOne
  | rxAvailable
  | rxClear
  -- ENC
  | encode (len : Byte) (payload : List Byte)
  -- CRC
  | crcClear
  | crcStep (b : Byte)
  | crcRead
  -- DEC
  | decReset
  | decFeed (b : Byte)
  | decResult
  -- PUT
  | putU8 (v : Int)
  | putI8 (v : Int)
  | putU16 (v : Int)
  | putI16 (v : Int)
  | putU32 (v : Int)
  | putI32 (v : Int)
  -- GET
  | getU8
  | getI8
  | getU16
  | getI16
  | getU32
  | getI32
  -- the READER's and the TIMER's event names
  | evtRxDeliver (b : Byte)
  | evtTimer
  deriving DecidableEq, Repr

end Sys2Proof
end

