-- ==== Sys2Proof/WellFormed.lean ====
section
/-! DEFINITION. Which terms of `Instr` are operations of the block: the operand shapes and ranges of 30_encoding.md R62
that the constructors' types do not already force. -/

namespace Sys2Proof

/-- ENCODE carries exactly `imm` payload bytes, and a PUT operand lies in its type's range (R62, 45_fields.md R102 to
R107). Every other operand has its range by its type. -/
def Instr.wellFormed : Instr → Bool
  | .encode len payload => payload.length == len.toNat
  | .putU8 v => decide (0 ≤ v ∧ v ≤ 255)
  | .putI8 v => decide (-128 ≤ v ∧ v ≤ 127)
  | .putU16 v => decide (0 ≤ v ∧ v ≤ 65535)
  | .putI16 v => decide (-32768 ≤ v ∧ v ≤ 32767)
  | .putU32 v => decide (0 ≤ v ∧ v ≤ 4294967295)
  | .putI32 v => decide (-2147483648 ≤ v ∧ v ≤ 2147483647)
  | .linkOpen _ _ _ _ => true
  | .linkWrite _ => true
  | .linkSetTimeout _ => true
  | .linkPulseReset => true
  | .linkClose => true
  | .rxReadOne => true
  | .rxAvailable => true
  | .rxClear => true
  | .crcClear => true
  | .crcStep _ => true
  | .crcRead => true
  | .decReset => true
  | .decFeed _ => true
  | .decResult => true
  | .getU8 => true
  | .getI8 => true
  | .getU16 => true
  | .getI16 => true
  | .getU32 => true
  | .getI32 => true
  | .evtRxDeliver _ => true
  | .evtTimer => true

/-- The two rows with op 0xF: they name the READER's and the TIMER's steps, and no client issues them (R63, R64). -/
def Instr.isEvent : Instr → Bool
  | .evtRxDeliver _ => true
  | .evtTimer => true
  | .linkOpen _ _ _ _ => false
  | .linkWrite _ => false
  | .linkSetTimeout _ => false
  | .linkPulseReset => false
  | .linkClose => false
  | .rxReadOne => false
  | .rxAvailable => false
  | .rxClear => false
  | .encode _ _ => false
  | .crcClear => false
  | .crcStep _ => false
  | .crcRead => false
  | .decReset => false
  | .decFeed _ => false
  | .decResult => false
  | .putU8 _ => false
  | .putI8 _ => false
  | .putU16 _ => false
  | .putI16 _ => false
  | .putU32 _ => false
  | .putI32 _ => false
  | .getU8 => false
  | .getI8 => false
  | .getU16 => false
  | .getI16 => false
  | .getU32 => false
  | .getI32 => false

end Sys2Proof
end

