-- ==== Sys2Proof/Decode.lean ====
section
/-! DEFINITION. The operation words of 30_encoding.md Part B: `decode` reads a transaction and refuses by name what
spells no operation (R64); `encode` writes one; and the byte form of both (R62, 92_eei_decisions.md D31). -/

namespace Sys2Proof

/-! ## Integers and bytes (00_scope.md R10, 20_memory.md R41) -/

/-- `u(v, n)` of R10: `v mod 2^n`. -/
def unsignedPart (v : Int) (n : Nat) : Nat := (v % (2 ^ n : Nat)).toNat

/-- `s(p, n)` of R10: the two's-complement reading of the n-bit pattern `p`. -/
def signedReading (p n : Nat) : Int := if p.testBit (n - 1) then (p : Int) - (2 ^ n : Nat) else p

/-- The `n` bytes of `v`, least significant first: byte `k` is `v[8k+7:8k]` (R41). -/
def leBytes : Nat → Nat → List Byte
  | 0, _ => []
  | n + 1, v => BitVec.ofNat 8 v :: leBytes n (v / 256)

/-- The number whose little-endian bytes these are (R41, R100). -/
def leNat : List Byte → Nat
  | [] => 0
  | b :: bs => b.toNat + 256 * leNat bs

/-! ## The fields of a word (R61) -/

/-- `op`, bits 15 to 12: the unit. -/
def opField (w : OpWord) : BitVec 4 := w.extractLsb' 12 4

/-- `sub`, bits 11 to 8: the operation within the unit, or the field type. -/
def subField (w : OpWord) : BitVec 4 := w.extractLsb' 8 4

/-- `imm`, bits 7 to 0. -/
def immField (w : OpWord) : Byte := w.extractLsb' 0 8

/-- The word with these three fields. -/
def opWord (op sub : BitVec 4) (imm : Byte) : OpWord := op ++ sub ++ imm

/-! ## Decoding (R62 to R64) -/

/-- Why a transaction spells no operation: the five cases of R64. -/
inductive DecodeError where
  /-- The word's `op` is 0x0 or one of 0x8 to 0xE. -/
  | reservedOp
  /-- The map lists no such `sub` for this `op`. -/
  | unlistedSub
  /-- `imm` must be 0x00 and is not. -/
  | nonzeroImm
  /-- A word with `op` 0xF from the client. -/
  | eventFromClient
  /-- The operand list has the wrong shape, or an operand lies outside its type's range. -/
  | badOperands
  /-- Fewer than the two bytes of a word (the byte form only). -/
  | noWord
  deriving DecidableEq, Repr

/-- The outcome of decoding. -/
abbrev Decoded (α : Type) := Except DecodeError α

/-- An unsigned operand of `n` bits, if the integer is in its range (R62). -/
def natOperand (n : Nat) (v : Int) : Option (BitVec n) :=
  if 0 ≤ v ∧ v.toNat < 2 ^ n then some (BitVec.ofNat n v.toNat) else none

/-- A list of byte operands, if each is in range (R62). -/
def byteOperands : List Int → Option (List Byte)
  | [] => some []
  | v :: vs =>
    match natOperand 8 v, byteOperands vs with
    | some b, some bs => some (b :: bs)
    | _, _ => none

/-- Where `imm` must be 0x00 (R63's "-"), refuse any other value (R64). -/
def withZeroImm (imm : Byte) (r : Decoded Instr) : Decoded Instr :=
  if imm = 0 then r else .error .nonzeroImm

/-- The empty operand list of every operation R62 does not name. -/
def noOperands (i : Instr) : List Int → Decoded Instr
  | [] => .ok i
  | _ :: _ => .error .badOperands

/-- LINK_OPEN's operands: `baud: u32, parity: u8, databits: u8, stop: u8` (R62). -/
def linkOpenOperands : List Int → Decoded Instr
  | [baud, parity, databits, stop] =>
    match natOperand 32 baud, natOperand 8 parity, natOperand 8 databits, natOperand 8 stop with
    | some b, some p, some d, some t => .ok (.linkOpen b p d t)
    | _, _, _, _ => .error .badOperands
  | _ => .error .badOperands

/-- LINK_WRITE's operands: a list of u8 of any length (R62). -/
def linkWriteOperands (vs : List Int) : Decoded Instr :=
  match byteOperands vs with
  | some bs => .ok (.linkWrite bs)
  | none => .error .badOperands

/-- LINK_SET_TIMEOUT's operand: `ms: u32` (R62). -/
def setTimeoutOperands : List Int → Decoded Instr
  | [ms] =>
    match natOperand 32 ms with
    | some m => .ok (.linkSetTimeout m)
    | none => .error .badOperands
  | _ => .error .badOperands

/-- ENCODE's operands: exactly `imm` bytes (R62, R64). -/
def encodeOperands (len : Byte) (vs : List Int) : Decoded Instr :=
  match byteOperands vs with
  | some bs => if bs.length = len.toNat then .ok (.encode len bs) else .error .badOperands
  | none => .error .badOperands

/-- A PUT's operand: one integer from `lo` to `hi` (R62, R10). -/
def putOperands (lo hi : Int) (mk : Int → Instr) : List Int → Decoded Instr
  | [v] => if lo ≤ v ∧ v ≤ hi then .ok (mk v) else .error .badOperands
  | _ => .error .badOperands

/-- Op 1, LINK (R63). -/
def decodeLink (sub : Nat) (imm : Byte) (vs : List Int) : Decoded Instr :=
  match sub with
  | 0 => withZeroImm imm (linkOpenOperands vs)
  | 1 => withZeroImm imm (linkWriteOperands vs)
  | 2 => withZeroImm imm (setTimeoutOperands vs)
  | 3 => withZeroImm imm (noOperands .linkPulseReset vs)
  | 4 => withZeroImm imm (noOperands .linkClose vs)
  | _ => .error .unlistedSub

/-- Op 2, RXB (R63). -/
def decodeRxb (sub : Nat) (imm : Byte) (vs : List Int) : Decoded Instr :=
  match sub with
  | 0 => withZeroImm imm (noOperands .rxReadOne vs)
  | 1 => withZeroImm imm (noOperands .rxAvailable vs)
  | 2 => withZeroImm imm (noOperands .rxClear vs)
  | _ => .error .unlistedSub

/-- Op 3, ENC (R63): `imm` is LEN. -/
def decodeEnc (sub : Nat) (imm : Byte) (vs : List Int) : Decoded Instr :=
  match sub with
  | 0 => encodeOperands imm vs
  | _ => .error .unlistedSub

/-- Op 4, CRC (R63). -/
def decodeCrc (sub : Nat) (imm : Byte) (vs : List Int) : Decoded Instr :=
  match sub with
  | 0 => withZeroImm imm (noOperands .crcClear vs)
  | 1 => noOperands (.crcStep imm) vs
  | 2 => withZeroImm imm (noOperands .crcRead vs)
  | _ => .error .unlistedSub

/-- Op 5, DEC (R63). -/
def decodeDec (sub : Nat) (imm : Byte) (vs : List Int) : Decoded Instr :=
  match sub with
  | 0 => withZeroImm imm (noOperands .decReset vs)
  | 1 => noOperands (.decFeed imm) vs
  | 2 => withZeroImm imm (noOperands .decResult vs)
  | _ => .error .unlistedSub

/-- Op 6, PUT: `sub` is the field type (R63). -/
def decodePut (sub : Nat) (imm : Byte) (vs : List Int) : Decoded Instr :=
  match sub with
  | 0 => withZeroImm imm (putOperands 0 255 .putU8 vs)
  | 1 => withZeroImm imm (putOperands (-128) 127 .putI8 vs)
  | 2 => withZeroImm imm (putOperands 0 65535 .putU16 vs)
  | 3 => withZeroImm imm (putOperands (-32768) 32767 .putI16 vs)
  | 4 => withZeroImm imm (putOperands 0 4294967295 .putU32 vs)
  | 5 => withZeroImm imm (putOperands (-2147483648) 2147483647 .putI32 vs)
  | _ => .error .unlistedSub

/-- Op 7, GET: `sub` is the field type (R63). -/
def decodeGet (sub : Nat) (imm : Byte) (vs : List Int) : Decoded Instr :=
  match sub with
  | 0 => withZeroImm imm (noOperands .getU8 vs)
  | 1 => withZeroImm imm (noOperands .getI8 vs)
  | 2 => withZeroImm imm (noOperands .getU16 vs)
  | 3 => withZeroImm imm (noOperands .getI16 vs)
  | 4 => withZeroImm imm (noOperands .getU32 vs)
  | 5 => withZeroImm imm (noOperands .getI32 vs)
  | _ => .error .unlistedSub

/-- Op 0xF, the agents' event words (R63): EVT_RX_DELIVER with its byte in `imm`, and EVT_TIMER. -/
def decodeEventRow (sub : Nat) (imm : Byte) (vs : List Int) : Decoded Instr :=
  match sub with
  | 0 => noOperands (.evtRxDeliver imm) vs
  | 1 => withZeroImm imm (noOperands .evtTimer vs)
  | _ => .error .unlistedSub

/-- The whole opcode map of R63, whoever issues the word. -/
def decode (t : Transaction) : Decoded Instr :=
  let sub := (subField t.word).toNat
  let imm := immField t.word
  match (opField t.word).toNat with
  | 1 => decodeLink sub imm t.operands
  | 2 => decodeRxb sub imm t.operands
  | 3 => decodeEnc sub imm t.operands
  | 4 => decodeCrc sub imm t.operands
  | 5 => decodeDec sub imm t.operands
  | 6 => decodePut sub imm t.operands
  | 7 => decodeGet sub imm t.operands
  | 15 => decodeEventRow sub imm t.operands
  | _ => .error .reservedOp

/-- The transactions of the CLIENT: the map without the event rows (R63, R64). -/
def decodeClient (t : Transaction) : Decoded Instr :=
  if opField t.word = 15 then .error .eventFromClient else decode t

/-- The event words of the READER and the TIMER: op 0xF, no operands (R63). -/
def decodeEvent (w : OpWord) : Decoded Instr :=
  if opField w = 15 then decode ⟨w, []⟩ else .error .reservedOp

/-! ## Encoding (R62, R63) -/

/-- The operation word of an operation, from the map of R63. -/
def encodeWord : Instr → OpWord
  | .linkOpen _ _ _ _ => opWord 1 0 0
  | .linkWrite _ => opWord 1 1 0
  | .linkSetTimeout _ => opWord 1 2 0
  | .linkPulseReset => opWord 1 3 0
  | .linkClose => opWord 1 4 0
  | .rxReadOne => opWord 2 0 0
  | .rxAvailable => opWord 2 1 0
  | .rxClear => opWord 2 2 0
  | .encode len _ => opWord 3 0 len
  | .crcClear => opWord 4 0 0
  | .crcStep b => opWord 4 1 b
  | .crcRead => opWord 4 2 0
  | .decReset => opWord 5 0 0
  | .decFeed b => opWord 5 1 b
  | .decResult => opWord 5 2 0
  | .putU8 _ => opWord 6 0 0
  | .putI8 _ => opWord 6 1 0
  | .putU16 _ => opWord 6 2 0
  | .putI16 _ => opWord 6 3 0
  | .putU32 _ => opWord 6 4 0
  | .putI32 _ => opWord 6 5 0
  | .getU8 => opWord 7 0 0
  | .getI8 => opWord 7 1 0
  | .getU16 => opWord 7 2 0
  | .getI16 => opWord 7 3 0
  | .getU32 => opWord 7 4 0
  | .getI32 => opWord 7 5 0
  | .evtRxDeliver b => opWord 15 0 b
  | .evtTimer => opWord 15 1 0

/-- A byte list as an operand list. -/
def ofBytes (bs : List Byte) : List Int := bs.map fun b => (b.toNat : Int)

/-- The operand list of an operation (R62). -/
def encodeOperandList : Instr → List Int
  | .linkOpen baud parity databits stop => [(baud.toNat : Int), parity.toNat, databits.toNat, stop.toNat]
  | .linkWrite bs => ofBytes bs
  | .linkSetTimeout ms => [(ms.toNat : Int)]
  | .encode _ payload => ofBytes payload
  | .putU8 v | .putI8 v | .putU16 v | .putI16 v | .putU32 v | .putI32 v => [v]
  | .linkPulseReset | .linkClose | .rxReadOne | .rxAvailable | .rxClear | .crcClear | .crcStep _ | .crcRead
  | .decReset | .decFeed _ | .decResult | .getU8 | .getI8 | .getU16 | .getI16 | .getU32 | .getI32
  | .evtRxDeliver _ | .evtTimer => []

/-- The transaction that spells an operation. -/
def encode (i : Instr) : Transaction := ⟨encodeWord i, encodeOperandList i⟩

/-! ## The byte form (R62, D31) -/

/-- How a word's operand list lies in bytes. -/
inductive OperandForm where
  | none
  | linkOpen
  | bytes
  | word32
  | count (n : Nat)
  | field (width : Nat) (signed : Bool)
  deriving DecidableEq, Repr

/-- The form R62 gives the operands of a word. -/
def operandForm (w : OpWord) : OperandForm :=
  match (opField w).toNat, (subField w).toNat with
  | 1, 0 => .linkOpen
  | 1, 1 => .bytes
  | 1, 2 => .word32
  | 3, 0 => .count (immField w).toNat
  | 6, 0 => .field 1 false
  | 6, 1 => .field 1 true
  | 6, 2 => .field 2 false
  | 6, 3 => .field 2 true
  | 6, 4 => .field 4 false
  | 6, 5 => .field 4 true
  | _, _ => .none

/-- How many operand bytes a word asks for; the list of LINK_WRITE may be empty. -/
def OperandForm.byteCount : OperandForm → Nat
  | .none => 0
  | .linkOpen => 7
  | .bytes => 0
  | .word32 => 4
  | .count n => n
  | .field w _ => w

/-- The operand list that the bytes after a word spell; `none` where they are too few or too many. Multi-byte operands
are little-endian (D31); the list of LINK_WRITE is all of the bytes. -/
def operandsOfBytes : OperandForm → List Byte → Option (List Int)
  | .none, [] => some []
  | .linkOpen, [b0, b1, b2, b3, p, d, t] => some [(leNat [b0, b1, b2, b3] : Int), p.toNat, d.toNat, t.toNat]
  | .bytes, bs => some (ofBytes bs)
  | .word32, [b0, b1, b2, b3] => some [(leNat [b0, b1, b2, b3] : Int)]
  | .count n, bs => if bs.length = n then some (ofBytes bs) else Option.none
  | .field w signed, bs =>
    if bs.length = w then some [if signed then signedReading (leNat bs) (8 * w) else (leNat bs : Int)] else Option.none
  | _, _ => Option.none

/-- The transaction that a byte sequence spells: the word, low byte first, then the operands. -/
def transactionOfBytes : List Byte → Decoded Transaction
  | lo :: hi :: rest =>
    match operandsOfBytes (operandForm (hi ++ lo)) rest with
    | some vs => .ok ⟨hi ++ lo, vs⟩
    | none => .error .badOperands
  | _ => .error .noWord

/-- Decode any byte sequence. -/
def decodeBytes (bs : List Byte) : Decoded Instr :=
  match transactionOfBytes bs with
  | .ok t => decode t
  | .error e => .error e

/-- The operand bytes of an operation, little-endian (D31). -/
def encodeOperandBytes : Instr → List Byte
  | .linkOpen baud parity databits stop => leBytes 4 baud.toNat ++ [parity, databits, stop]
  | .linkWrite bs => bs
  | .linkSetTimeout ms => leBytes 4 ms.toNat
  | .encode _ payload => payload
  | .putU8 v | .putI8 v => leBytes 1 (unsignedPart v 8)
  | .putU16 v | .putI16 v => leBytes 2 (unsignedPart v 16)
  | .putU32 v | .putI32 v => leBytes 4 (unsignedPart v 32)
  | .linkPulseReset | .linkClose | .rxReadOne | .rxAvailable | .rxClear | .crcClear | .crcStep _ | .crcRead
  | .decReset | .decFeed _ | .decResult | .getU8 | .getI8 | .getU16 | .getI16 | .getU32 | .getI32
  | .evtRxDeliver _ | .evtTimer => []

/-- The byte form of an operation: its word, low byte first, and its operand bytes. -/
def encodeBytes (i : Instr) : List Byte := leBytes 2 (encodeWord i).toNat ++ encodeOperandBytes i

/-! ## A row of the opcode table as bytes -/

/-- The word in the low 16 of the `nbits` bits of `w`. -/
def tableWord (nbits w : Nat) : OpWord := BitVec.ofNat 16 (w % 2 ^ nbits)

/-- The instruction whose bits are `w`, laid out in bytes; every operand bit above `nbits` is 0. -/
def tableBytes (nbits w : Nat) : List Byte :=
  leBytes (2 + (operandForm (tableWord nbits w)).byteCount) (w % 2 ^ nbits)

/-- The transaction those bytes spell. -/
def tableTransaction (nbits w : Nat) : Transaction :=
  match transactionOfBytes (tableBytes nbits w) with
  | .ok t => t
  | .error _ => ⟨tableWord nbits w, []⟩

/-- The operation the decoder reads from an instruction whose bits are `w`. -/
def decodeTableWord (nbits w : Nat) : Option Instr :=
  match decodeBytes (tableBytes nbits w) with
  | .ok i => some i
  | .error _ => none

end Sys2Proof
end

