-- ==== Sys2Proof/Config.lean ====
section
/-! DEFINITION. The implementation parameters of 00_scope.md R7: those the source fixes have values, those it leaves
OPEN are constants without a body, so nothing can be proved of a particular value. The free values stand here too. -/

namespace Sys2Proof.Config

/-- `START` (R7): the first byte of every frame. -/
def start : Byte := 0xD5

/-- `MAX_LEN` (R7): LEN is one byte. -/
def maxLen : Nat := 255

/-- `CRC_POLY_REFLECTED` (R7): the reflected form of x^8 + x^5 + x^4 + 1. -/
def crcPolyReflected : Byte := 0x8C

/-- `CRC_SEED` (R7). -/
def crcSeed : Byte := 0x00

/-- `DATA_BITS` (R7): the only legal count. -/
def dataBits : Nat := 8

/-- `DEVICE_LEN_LIMIT` (R7, R146): informative; no rule of the block enforces it. -/
def deviceLenLimit : Nat := 32

/-- The environment's answer to a LINK_OPEN with a legal configuration (`OPEN_OUTCOME`, R7, 40_link.md R69). -/
inductive OpenOutcome where
  | ok
  | portNotFound
  | portInUse
  | portOpenError
  deriving DecidableEq, Repr, Inhabited

/-- The environment's answer to a LINK_WRITE (`WRITE_OUTCOME`, R7, 40_link.md R72). In `ioError k` the first `k` bytes
reached the line; a `k` past the end of the list means all of them did, which is the answer `k = len(bytes)`. -/
inductive WriteOutcome where
  | ok
  | ioError (sent : Nat)
  deriving DecidableEq, Repr, Inhabited

/-- `RXBUF_INIT_CAP` less one (R7: a natural of at least 1, otherwise OPEN). -/
opaque rxbufInitCapLessOne : Nat

/-- `RXBUF_INIT_CAP` (R7, D8). -/
def rxbufInitCap : Nat := rxbufInitCapLessOne + 1

/-- The `k` of `RXBUF_MAX_CAP = RXBUF_INIT_CAP * 2^k` (R7, D8): OPEN. -/
opaque rxbufGrowths : Nat

/-- `HAS_READ_TIMEOUT` (R7, D11): OPEN. -/
opaque hasReadTimeout : Bool

/-- A byte of `rxbuf` that nothing has written since the line was opened (10_state.md R23): a free value per index. -/
opaque rxbufUnwritten : Nat → Byte

/-- The DTR level after LINK_CLOSE (10_state.md R22, 40_link.md R75): a free value per draw. -/
opaque dtrAfterClose : Nat → Bool

/-- The answer to a LINK_OPEN for which the state holds none: a free value per draw. -/
opaque openOutcome : Nat → OpenOutcome

/-- The answer to a LINK_WRITE for which the state holds none: a free value per draw. -/
opaque writeOutcome : Nat → WriteOutcome

end Sys2Proof.Config
end

