-- ==== Sys2Proof/Machine/State.lean ====
section
/-! DEFINITION. The state of the block (10_state.md), the ways a step ends, and the state after reset (R36). -/

namespace Sys2Proof.Machine

/-- The fault kinds of 60_exceptions.md R116. A raised kind is recorded in the state, in a next state (R117); the step
after it, in which no agent may move, stops with the kind. Safe: a stopped run proves nothing about what follows. -/
inductive Fault where
  /-- F_NOT_OPEN (1): a link-dependent operation on a closed line (40_link.md R68). Safe. -/
  | notOpen
  /-- F_DOUBLE_OPEN (2): LINK_OPEN on an open line (R69). Safe. -/
  | doubleOpen
  /-- F_RX_OVERFLOW (3): a received byte finds the buffer full at RXBUF_MAX_CAP (41_rxbuf.md R77). Safe. -/
  | rxOverflow
  /-- F_NO_FRAME (4): a GET without a good frame (45_fields.md R100). Safe. -/
  | noFrame
  /-- F_FIELD_UNDERRUN (5): a GET past the end of the response data (R100). Safe. -/
  | fieldUnderrun
  deriving DecidableEq, Repr

/-- Why a step is refused. -/
inductive Refusal where
  /-- Raised by `exec` for an instruction without a meaning; no arm does. Safe. -/
  | notModelled (mnemonic : String)
  /-- Raised by a step of a block whose `refused` mark is set: a transaction spelled no operation, and the block is
  quiescent (60_exceptions.md R118). Safe. -/
  | noOperation
  deriving DecidableEq, Repr

/-- The status of a result record (60_exceptions.md R114). -/
inductive Status where
  | ok
  | timeout
  | ioError
  | portNotFound
  | portInUse
  | portOpenError
  | configError
  deriving DecidableEq, Repr

/-- `res_status` (10_state.md R29); the value 3 never occurs. -/
inductive ResStatus where
  | none
  | frameOk
  | crcMismatch
  deriving DecidableEq, Repr

/-- The response classes of 44_decoder.md R96. -/
inductive RespClass where
  | noFrame
  | decoderCrcMismatch
  | noCode
  | genericError
  | ok
  | bufferOverflow
  | deviceCrcMismatch
  | queryOverflow
  | unsupported
  | protocolViolation
  deriving DecidableEq, Repr

/-- The value of a result record: what each operation's rule returns. -/
inductive Value where
  | none
  /-- DEC_FEED's `done`. -/
  | bit (b : Bool)
  /-- RX_READ_ONE's byte. -/
  | byte (b : Byte)
  /-- The accumulator that CRC_STEP and CRC_READ return. -/
  | crc (acc : Byte)
  /-- RX_AVAILABLE's count. -/
  | count (n : Nat)
  /-- A GET's integer. -/
  | int (v : Int)
  /-- ENCODE's frame and a PUT's bytes. -/
  | bytes (l : List Byte)
  /-- DEC_RESULT's tuple (44_decoder.md R95). -/
  | decoded (status : ResStatus) (len : Nat) (payload : List Byte) (code : Option Byte) (cls : RespClass)
  deriving DecidableEq, Repr

/-- A result record `(status, value)` (10_state.md R17, 60_exceptions.md R114). -/
structure Result where
  status : Status
  value : Value
  deriving DecidableEq, Repr

/-- The receive buffer's storage: (index, byte) pairs, indices strictly rising. An index that is not listed has not been
written since the line was opened and has no value of its own (10_state.md R23). -/
abbrev Memory := List Host.Cell

/-- The line configuration register `cfg` (10_state.md R20); `stop` counts half-bits. -/
structure LineConfig where
  baud : Word32
  parity : BitVec 2
  databits : BitVec 4
  stop : BitVec 3
  deriving DecidableEq, Repr

/-- The receive buffer and the line queue: `rxbuf`, `rx_cap`, `rx_first`, `rx_last`, `rx_line` (10_state.md R23, R25). -/
structure RxUnit where
  buf : Memory
  cap : Nat
  first : Nat
  last : Nat
  line : List Byte
  deriving DecidableEq, Repr

/-- `dec_state` (10_state.md R27), in the order of its values 0 to 3. -/
inductive DecState where
  | awaitStart
  | awaitLength
  | inPayload
  | awaitCrc
  deriving DecidableEq, Repr

/-- The decoder's state and working registers: `dec_state`, `dec_len`, `dec_rem`, `dec_work`, `dec_crc` (R27, R28). -/
structure DecUnit where
  state : DecState
  len : Byte
  rem : Byte
  work : List Byte
  crc : Byte
  deriving DecidableEq, Repr

/-- The decoder's result registers `res_status` and `res_payload` (10_state.md R29). -/
structure DecResult where
  status : ResStatus
  payload : List Byte
  deriving DecidableEq, Repr

/-- `pend` (10_state.md R35). -/
inductive Pend where
  | none
  | readOne
  deriving DecidableEq, Repr

/-- The implementation parameters in force (00_scope.md R7): data of the state so that a run can be written out for any
choice of them; no step changes them, and reset takes them from Config, where they have no value. -/
structure Params where
  /-- `RXBUF_INIT_CAP`. -/
  initCap : Nat
  /-- The `k` of `RXBUF_MAX_CAP = RXBUF_INIT_CAP * 2^k`. -/
  growths : Nat
  /-- `HAS_READ_TIMEOUT`. -/
  hasReadTimeout : Bool
  deriving DecidableEq, Repr

/-- Whose step is next (00_scope.md R13, R14). -/
inductive Turn where
  /-- The CLIENT issues its next transaction, or retries the read that holds. -/
  | client
  /-- The READER or the TIMER takes the step its event word names (30_encoding.md R63). -/
  | event (word : OpWord)
  /-- ENV sends a byte (41_rxbuf.md R76). -/
  | envRx (b : Byte)
  deriving DecidableEq, Repr

/-- What the world outside the block will do, as lists the step reads: the client's program (10_state.md R18), the order
of the agents' turns, ENV's answers to LINK_OPEN and LINK_WRITE, and the counter that numbers the free values. -/
structure Outside where
  program : List Transaction
  schedule : List Turn
  openAnswers : List Config.OpenOutcome
  writeAnswers : List Config.WriteOutcome
  draws : Nat
  deriving DecidableEq, Repr

/-- The state of the block. -/
structure State where
  params : Params
  linkOpen : Bool
  cfg : LineConfig
  timeoutMs : Word32
  dtr : Bool
  rx : RxUnit
  crcAcc : Byte
  dec : DecUnit
  res : DecResult
  fldCursor : Byte
  /-- The fault set (10_state.md R32): each kind at most once, in the order of R116. -/
  fault : List Fault
  refused : Bool
  txHist : List Byte
  dtrHist : List Bool
  pend : Pend
  /-- The result records returned to the client so far, oldest first. -/
  results : List Result
  outside : Outside
  deriving DecidableEq, Repr

/-- How a step ends. -/
abbrev StepOutcome := Host.Outcome State Fault Refusal

/-- `RXBUF_MAX_CAP` (00_scope.md R7). -/
def Params.maxCap (p : Params) : Nat := p.initCap * 2 ^ p.growths

/-- The decoder after reset or DEC_RESET (10_state.md R36, 44_decoder.md R92). -/
def DecUnit.fresh : DecUnit := ⟨.awaitStart, 0, 0, [], 0⟩

/-- The result registers after reset or DEC_RESET. -/
def DecResult.fresh : DecResult := ⟨.none, []⟩

/-- The block right after reset (10_state.md R36, 70_reset_and_hazards.md R132). `cfg.baud`, `cfg.parity` and `cfg.stop`
are unspecified there and 0 here (DESIGN CHOICE, log entry 1); nothing is placed outside the block yet (log entry 6). -/
def State.reset : State where
  params := ⟨Config.rxbufInitCap, Config.rxbufGrowths, Config.hasReadTimeout⟩
  linkOpen := false
  cfg := ⟨0, 0, 8, 0⟩
  timeoutMs := 0
  dtr := true
  rx := ⟨[], Config.rxbufInitCap, 0, 0, []⟩
  crcAcc := Config.crcSeed
  dec := DecUnit.fresh
  res := DecResult.fresh
  fldCursor := 0
  fault := []
  refused := false
  txHist := []
  dtrHist := []
  pend := .none
  results := []
  outside := ⟨[], [], [], [], 0⟩

end Sys2Proof.Machine
end

