-- ==== Sys2Proof/Machine/Ops.lean ====
section
/-! DEFINITION. The named operations that the meanings share: the receive buffer's storage, the result record, raising a
fault and refusing, the link guard and the environment's draws. The block has no trap entry and no return from one
(60_exceptions.md R122, R123): raising a fault or refusing is all that an error does. -/

namespace Sys2Proof.Machine

/-! ## The receive buffer's storage (20_memory.md R37, R42) -/

/-- The byte listed at an index, if one is. -/
def Memory.listed : Memory → Nat → Option Byte
  | [], _ => none
  | (k, v) :: m, a => if k = a then some v else Memory.listed m a

/-- `MemRead(a, 1)` (00_scope.md R12). A byte nothing has written is a free value (10_state.md R23). -/
def Memory.read (m : Memory) (a : Nat) : Byte := (m.listed a).getD (Config.rxbufUnwritten a)

/-- `MemWrite(a, 1, v)` (00_scope.md R12). -/
def Memory.write : Memory → Nat → Byte → Memory
  | [], a, v => [(a, v)]
  | (k, w) :: m, a, v =>
    if a < k then (a, v) :: (k, w) :: m
    else if a = k then (a, v) :: m
    else (k, w) :: Memory.write m a v

/-- The indices of a list rise strictly, each above `low` where there is one. -/
def Memory.risesAbove : Option Nat → Memory → Bool
  | _, [] => true
  | low, (k, _) :: m => (match low with | none => true | some l => decide (l < k)) && Memory.risesAbove (some k) m

/-- The canonical form: indices strictly rising. -/
def Memory.wf (m : Memory) : Bool := Memory.risesAbove none m

/-- The bytes from index `first` on, `n` of them: with `n = rx_last - rx_first`, the pending bytes of 10_state.md R24. -/
def Memory.slice (m : Memory) (first : Nat) : Nat → List Byte
  | 0 => []
  | n + 1 => m.read first :: Memory.slice m (first + 1) n

/-- The bytes pending for the client, oldest first (10_state.md R24). -/
def State.pending (s : State) : List Byte := s.rx.buf.slice s.rx.first (s.rx.last - s.rx.first)

/-! ## Results, faults, refusals -/

/-- `return (status, value)` (00_scope.md R12): hand the client a result record. -/
def answer (st : Status) (v : Value) (s : State) : State := { s with results := s.results ++ [⟨st, v⟩] }

/-- Complete an operation with a result record. -/
def complete (st : Status) (v : Value) (s : State) : StepOutcome := .next (answer st v s)

/-- The fault kinds in the order of R116. -/
def faultKinds : List Fault := [.notOpen, .doubleOpen, .rxOverflow, .noFrame, .fieldUnderrun]

/-- `fault ∪ {k}`, each kind once and in the order of R116. -/
def addFault (k : Fault) (f : List Fault) : List Fault := faultKinds.filter fun x => x == k || f.contains x

/-- Record a fault kind (60_exceptions.md R117). -/
def recordFault (k : Fault) (s : State) : State := { s with fault := addFault k s.fault }

/-- `raise Fault(k)` (00_scope.md R12, 60_exceptions.md R117): the kind is recorded, the operation has no other effect
and returns no result record; the block is quiescent from the next state on. -/
def raise (k : Fault) (s : State) : StepOutcome := .next (recordFault k s)

/-- `refuse(reason)` (30_encoding.md R64, 60_exceptions.md R118): the sticky mark, and nothing else. -/
def refuse (s : State) : StepOutcome := .next { s with refused := true }

/-- A faulted or refused block takes no step (60_exceptions.md R117, R118): how such a step ends. -/
def quiescence (s : State) : Option StepOutcome :=
  match s.fault with
  | k :: _ => some (.fault k)
  | [] => if s.refused then some (.refused .noOperation) else none

/-- `require_open()` (40_link.md R68), then the rest of the operation. -/
def requireOpen (s : State) (rest : StepOutcome) : StepOutcome :=
  if s.linkOpen then rest else raise .notOpen s

/-! ## Draws (00_scope.md R12): free inputs of a step, from ENV -/

/-- Draw OPEN_OUTCOME: the answer ENV has ready, or a free value where it has none. -/
def drawOpen (s : State) : Config.OpenOutcome × State :=
  match s.outside.openAnswers with
  | o :: os => (o, { s with outside := { s.outside with openAnswers := os } })
  | [] => (Config.openOutcome s.outside.draws, { s with outside := { s.outside with draws := s.outside.draws + 1 } })

/-- Draw WRITE_OUTCOME: the answer ENV has ready, or a free value where it has none. -/
def drawWrite (s : State) : Config.WriteOutcome × State :=
  match s.outside.writeAnswers with
  | w :: ws => (w, { s with outside := { s.outside with writeAnswers := ws } })
  | [] => (Config.writeOutcome s.outside.draws, { s with outside := { s.outside with draws := s.outside.draws + 1 } })

/-- Draw the DTR level that LINK_CLOSE leaves (10_state.md R22): a free value. -/
def drawDtr (s : State) : State :=
  { s with dtr := Config.dtrAfterClose s.outside.draws, outside := { s.outside with draws := s.outside.draws + 1 } }

end Sys2Proof.Machine
end

