-- ==== Sys2Proof/Machine/Flags.lean ====
section
/-! DEFINITION. The codes and classes the block reports. It has no condition codes (10_state.md R31); its only flag is
`res_status`, and its reports are the status codes (60_exceptions.md R114), the fault codes (R116), the response codes
(30_encoding.md R57) and the response class (44_decoder.md R96). -/

namespace Sys2Proof.Machine

/-- The numbers of R114. -/
def Status.code : Status → Nat
  | .ok => 0
  | .timeout => 1
  | .ioError => 2
  | .portNotFound => 3
  | .portInUse => 4
  | .portOpenError => 5
  | .configError => 6

/-- The numbers of R116. -/
def Fault.code : Fault → Nat
  | .notOpen => 1
  | .doubleOpen => 2
  | .rxOverflow => 3
  | .noFrame => 4
  | .fieldUnderrun => 5

/-- The two bits of `res_status` (10_state.md R29). -/
def ResStatus.code : ResStatus → BitVec 2
  | .none => 0
  | .frameOk => 1
  | .crcMismatch => 2

/-- The two bits of `dec_state` (10_state.md R27). -/
def DecState.code : DecState → BitVec 2
  | .awaitStart => 0
  | .awaitLength => 1
  | .inPayload => 2
  | .awaitCrc => 3

/-- The class numbers of 44_decoder.md R96. -/
def RespClass.number : RespClass → Nat
  | .noFrame => 0
  | .decoderCrcMismatch => 1
  | .noCode => 2
  | .genericError => 3
  | .ok => 4
  | .bufferOverflow => 5
  | .deviceCrcMismatch => 6
  | .queryOverflow => 7
  | .unsupported => 8
  | .protocolViolation => 9

/-- The class of a response code, byte 0 of a response payload (30_encoding.md R57, 44_decoder.md R96). -/
def classOfCode (code : Byte) : RespClass :=
  if code = 0x80 then .genericError
  else if code = 0x81 then .ok
  else if code = 0x82 then .bufferOverflow
  else if code = 0x83 then .deviceCrcMismatch
  else if code = 0x84 then .queryOverflow
  else if code = 0x85 then .unsupported
  else .protocolViolation

/-- `classify(res_status, res_payload)` (44_decoder.md R96). -/
def classify (r : DecResult) : RespClass :=
  match r.status, r.payload with
  | .none, _ => .noFrame
  | .crcMismatch, _ => .decoderCrcMismatch
  | .frameOk, [] => .noCode
  | .frameOk, c :: _ => classOfCode c

/-- The response code of a result, if it has one (44_decoder.md R95). -/
def responseCode (r : DecResult) : Option Byte :=
  match r.status, r.payload with
  | .frameOk, c :: _ => some c
  | _, _ => none

/-- The status with which LINK_OPEN reports the environment's answer (40_link.md R69). -/
def openStatus : Config.OpenOutcome → Status
  | .ok => .ok
  | .portNotFound => .portNotFound
  | .portInUse => .portInUse
  | .portOpenError => .portOpenError

end Sys2Proof.Machine
end

