-- ==== Sys2Proof/Machine/Operands.lean ====
section
/-! DEFINITION. The operand forms the meanings use: LINK_OPEN's configuration check (10_state.md R20, 40_link.md R69) and
the little-endian fields (45_fields.md R99, R100). -/

namespace Sys2Proof.Machine

/-- The configurations LINK_OPEN accepts: 8 data bits, parity N, E or O, 1, 1.5 or 2 stop bits, a nonzero baud rate. -/
def legalConfig (baud : Word32) (parity databits stop : Byte) : Bool :=
  databits.toNat == Config.dataBits && (parity == 0 || parity == 1 || parity == 2)
    && (stop == 2 || stop == 3 || stop == 4) && baud != 0

/-- `put(w, v)` of 45_fields.md R99: the w-byte little-endian pattern of an integer. -/
def put (w : Nat) (v : Int) : List Byte := leBytes w (unsignedPart v (8 * w))

/-- The response data `res_payload[1 ..)` (R100). -/
def responseData (r : DecResult) : List Byte := r.payload.drop 1

/-- The value of a field's bytes: little-endian assembly, read as signed or unsigned (R100). -/
def fieldValue (signed : Bool) (bytes : List Byte) : Int :=
  if signed then signedReading (leNat bytes) (8 * bytes.length) else leNat bytes

/-- A PUT operation of width `w` (R99): its bytes are the result, and no state changes. -/
def putField (w : Nat) (v : Int) (s : State) : StepOutcome := complete .ok (.bytes (put w v)) s

/-- `get(w, sg)` of 45_fields.md R100. -/
def getField (w : Nat) (signed : Bool) (s : State) : StepOutcome :=
  if s.res.status = .frameOk then
    if s.fldCursor.toNat + w > (responseData s.res).length then raise .fieldUnderrun s
    else
      complete .ok (.int (fieldValue signed (((responseData s.res).drop s.fldCursor.toNat).take w)))
        { s with fldCursor := s.fldCursor + BitVec.ofNat 8 w }
  else raise .noFrame s

end Sys2Proof.Machine
end

