-- ==== Sys2Proof/Machine/Crc.lean ====
section
/-! DEFINITION. The CRC-8/iButton function (43_crc.md R85, R86) and the CRC operations (R89 to R91). -/

namespace Sys2Proof.Machine

/-- One of the eight shift steps of R85. -/
def crc8Shift (a : Byte) : Byte :=
  if a.getLsbD 0 then (a >>> 1) ^^^ Config.crcPolyReflected else a >>> 1

/-- `crc8_byte(acc, b)` (R85). -/
def crc8Byte (acc b : Byte) : Byte :=
  crc8Shift (crc8Shift (crc8Shift (crc8Shift (crc8Shift (crc8Shift (crc8Shift (crc8Shift (acc ^^^ b))))))))

/-- `crc8(l)` (R86). -/
def crc8 (l : List Byte) : Byte := l.foldl crc8Byte Config.crcSeed

/-- CRC_CLEAR (R89). -/
def execCrcClear (s : State) : StepOutcome := complete .ok .none { s with crcAcc := Config.crcSeed }

/-- CRC_STEP (R90). -/
def execCrcStep (b : Byte) (s : State) : StepOutcome :=
  complete .ok (.crc (crc8Byte s.crcAcc b)) { s with crcAcc := crc8Byte s.crcAcc b }

/-- CRC_READ (R91). -/
def execCrcRead (s : State) : StepOutcome := complete .ok (.crc s.crcAcc) s

end Sys2Proof.Machine
end

