-- ==== Sys2Proof/Machine/Dec.lean ====
section
/-! DEFINITION. The packet decoder (44_decoder.md R92 to R95). -/

namespace Sys2Proof.Machine

/-- DEC_RESET's effect (R92). -/
def resetDecoder (s : State) : State := { s with dec := .fresh, res := .fresh, fldCursor := 0 }

/-- DEC_RESET (R92). -/
def execDecReset (s : State) : StepOutcome := complete .ok .none (resetDecoder s)

/-- The result registers after a frame whose CRC byte is `b` (R93, AwaitCrc). -/
def latch (d : DecUnit) (b : Byte) : DecResult :=
  if b = d.crc then ⟨.frameOk, d.work⟩ else ⟨.crcMismatch, []⟩

/-- DEC_FEED's step on a byte (R93): the new state and `done`. -/
def feed (b : Byte) (s : State) : State × Bool :=
  match s.dec.state with
  | .awaitStart =>
    if b = Config.start then
      ({ s with dec := { s.dec with state := .awaitLength, work := [], crc := Config.crcSeed } }, false)
    else (s, false)
  | .awaitLength =>
    if b = 0 then ({ s with dec := { s.dec with state := .awaitCrc, len := b } }, false)
    else ({ s with dec := { s.dec with state := .inPayload, len := b, rem := b } }, false)
  | .inPayload =>
    ({ s with
        dec :=
          { s.dec with
            state := if s.dec.rem - 1 = 0 then .awaitCrc else .inPayload
            rem := s.dec.rem - 1
            work := s.dec.work ++ [b]
            crc := crc8Byte s.dec.crc b } }, false)
  | .awaitCrc => ({ s with dec := .fresh, res := latch s.dec b, fldCursor := 0 }, true)

/-- DEC_FEED (R93). -/
def execDecFeed (b : Byte) (s : State) : StepOutcome := complete .ok (.bit (feed b s).2) (feed b s).1

/-- The tuple DEC_RESULT returns (R95). -/
def resultTuple (r : DecResult) : Value := .decoded r.status r.payload.length r.payload (responseCode r) (classify r)

/-- DEC_RESULT (R95). -/
def execDecResult (s : State) : StepOutcome := complete .ok (resultTuple s.res) s

end Sys2Proof.Machine
end

