-- ==== Sys2Proof/Machine/Enc.lean ====
section
/-! DEFINITION. The wire frame (30_encoding.md R52, R53) and ENCODE (42_encoder.md R83). -/

namespace Sys2Proof.Machine

/-- The frame of LEN `len` around a payload: `[0xD5, L] ++ payload ++ [crc8(payload)]` (R83). -/
def frame (len : Byte) (payload : List Byte) : List Byte := [Config.start, len] ++ payload ++ [crc8 payload]

/-- The frame of a payload, with its own length as LEN (R52). -/
def frameOf (payload : List Byte) : List Byte := frame (BitVec.ofNat 8 payload.length) payload

/-- A byte sequence is a well-formed frame: START, a LEN that is the payload's length, the payload and its CRC (R53). -/
def wellFormedFrame (f : List Byte) : Bool :=
  match f with
  | st :: len :: rest =>
    st == Config.start && rest.length == len.toNat + 1 && rest.drop len.toNat == [crc8 (rest.take len.toNat)]
  | _ => false

/-- ENCODE (R83). -/
def execEncode (len : Byte) (payload : List Byte) (s : State) : StepOutcome :=
  complete .ok (.bytes (frame len payload)) s

end Sys2Proof.Machine
end

