-- ==== Sys2Proof/Machine/Fld.lean ====
section
/-! DEFINITION. The field operations (45_fields.md R102 to R113). -/

namespace Sys2Proof.Machine

/-- PUT_U8 (R102). -/
def execPutU8 (v : Int) (s : State) : StepOutcome := putField 1 v s
/-- PUT_I8 (R103). -/
def execPutI8 (v : Int) (s : State) : StepOutcome := putField 1 v s
/-- PUT_U16 (R104). -/
def execPutU16 (v : Int) (s : State) : StepOutcome := putField 2 v s
/-- PUT_I16 (R105). -/
def execPutI16 (v : Int) (s : State) : StepOutcome := putField 2 v s
/-- PUT_U32 (R106). -/
def execPutU32 (v : Int) (s : State) : StepOutcome := putField 4 v s
/-- PUT_I32 (R107). -/
def execPutI32 (v : Int) (s : State) : StepOutcome := putField 4 v s

/-- GET_U8 (R108). -/
def execGetU8 (s : State) : StepOutcome := getField 1 false s
/-- GET_I8 (R109). -/
def execGetI8 (s : State) : StepOutcome := getField 1 true s
/-- GET_U16 (R110). -/
def execGetU16 (s : State) : StepOutcome := getField 2 false s
/-- GET_I16 (R111). -/
def execGetI16 (s : State) : StepOutcome := getField 2 true s
/-- GET_U32 (R112). -/
def execGetU32 (s : State) : StepOutcome := getField 4 false s
/-- GET_I32 (R113). -/
def execGetI32 (s : State) : StepOutcome := getField 4 true s

end Sys2Proof.Machine
end

