-- ==== Sys2Proof/Machine/Link.lean ====
section
/-! DEFINITION. The LINK operations (40_link.md R68 to R75). -/

namespace Sys2Proof.Machine

/-- The effect of a successful LINK_OPEN (R70): a fresh link. The contents of `rxbuf` are unspecified, so none is
listed. -/
def openSuccess (baud : Word32) (parity stop : Byte) (s : State) : State :=
  { s with
    cfg := ⟨baud, parity.setWidth 2, 8, stop.setWidth 3⟩
    rx := ⟨[], s.params.initCap, 0, 0, []⟩
    timeoutMs := 0
    linkOpen := true }

/-- LINK_OPEN (R69, R71): the double-open fault, then the configuration check, then the environment's answer. -/
def execLinkOpen (baud : Word32) (parity databits stop : Byte) (s : State) : StepOutcome :=
  if s.linkOpen then raise .doubleOpen s
  else if legalConfig baud parity databits stop then
    match drawOpen s with
    | (.ok, s') => complete .ok .none (openSuccess baud parity stop s')
    | (o, s') => complete (openStatus o) .none s'
  else complete .configError .none s

/-- LINK_WRITE (R72): all of the bytes, or on an IO error the prefix that reached the line. DESIGN CHOICE (log entry 21): an
empty list follows the pseudocode too, so an IO_ERROR drawn for it is its status; a corner case of R72 says both that it
always completes OK and that the spec admits the draw. -/
def execLinkWrite (bytes : List Byte) (s : State) : StepOutcome :=
  requireOpen s <|
    match drawWrite s with
    | (.ok, s') => complete .ok .none { s' with txHist := s'.txHist ++ bytes }
    | (.ioError k, s') => complete .ioError .none { s' with txHist := s'.txHist ++ bytes.take k }

/-- LINK_SET_TIMEOUT (R73). -/
def execLinkSetTimeout (ms : Word32) (s : State) : StepOutcome :=
  requireOpen s <| complete .ok .none { s with timeoutMs := ms }

/-- Drive DTR to a level and record the change (10_state.md R22, R34). -/
def driveDtr (level : Bool) (s : State) : State := { s with dtr := level, dtrHist := s.dtrHist ++ [level] }

/-- LINK_PULSE_RESET (R74): low, then high, in one step. -/
def execLinkPulseReset (s : State) : StepOutcome :=
  requireOpen s <| complete .ok .none (driveDtr true (driveDtr false s))

/-- LINK_CLOSE (R75). Closing an open line leaves the DTR level unspecified (10_state.md R22): a free value. -/
def execLinkClose (s : State) : StepOutcome :=
  if s.linkOpen then
    complete .ok .none (drawDtr { s with linkOpen := false, rx := { s.rx with line := [] } })
  else complete .ok .none s

end Sys2Proof.Machine
end

