-- ==== Sys2Proof/Machine/Rxb.lean ====
section
/-! DEFINITION. The receive buffer's operations and the READER's and TIMER's steps (41_rxbuf.md R77 to R81). -/

namespace Sys2Proof.Machine

/-- Append a byte at `rx_last` (R77): where the buffer is full its capacity doubles, or at RXBUF_MAX_CAP the byte is
dropped with F_RX_OVERFLOW. -/
def appendRx (b : Byte) (s : State) : State :=
  if s.rx.last = s.rx.cap then
    if s.rx.cap < s.params.maxCap then
      { s with rx := { s.rx with buf := s.rx.buf.write s.rx.last b, cap := 2 * s.rx.cap, last := s.rx.last + 1 } }
    else recordFault .rxOverflow s
  else { s with rx := { s.rx with buf := s.rx.buf.write s.rx.last b, last := s.rx.last + 1 } }

/-- The READER may deliver `b`: the line is open and `b` is the head of `rx_line` (R77). -/
def readerEnabled (b : Byte) (s : State) : Bool := s.linkOpen && s.rx.line.head? == some b

/-- EVT_RX_DELIVER (R77). Where the READER is not enabled for `b` there is no such step, and nothing moves. -/
def execEvtRxDeliver (b : Byte) (s : State) : StepOutcome :=
  if readerEnabled b s then .next (appendRx b { s with rx := { s.rx with line := s.rx.line.tail } }) else .next s

/-- Advance `rx_first` past a byte that was read; an emptied buffer rewinds in the same step (R78, D9). -/
def consumeRx (rx : RxUnit) : RxUnit :=
  if rx.first + 1 = rx.last then { rx with first := 0, last := 0 } else { rx with first := rx.first + 1 }

/-- RX_READ_ONE (R78): the next byte, or hold, which marks the read pending. Where the read is marked already, holding
again changes nothing (log entry 20). -/
def execRxReadOne (s : State) : StepOutcome :=
  requireOpen s <|
    if s.rx.first < s.rx.last then
      complete .ok (.byte (s.rx.buf.read s.rx.first)) { s with rx := consumeRx s.rx, pend := .none }
    else .next { s with pend := .readOne }

/-- The TIMER may fire: a read holds on an empty buffer, with a timeout, on a platform that can time out (R79). -/
def timerEnabled (s : State) : Bool :=
  s.pend == .readOne && s.rx.last == s.rx.first && s.timeoutMs != 0 && s.params.hasReadTimeout

/-- EVT_TIMER (R79): the held read completes with TIMEOUT. Where the TIMER is not enabled nothing moves. -/
def execEvtTimer (s : State) : StepOutcome :=
  if timerEnabled s then complete .timeout .none { s with pend := .none } else .next s

/-- RX_AVAILABLE (R80). -/
def execRxAvailable (s : State) : StepOutcome :=
  requireOpen s <| complete .ok (.count (s.rx.last - s.rx.first)) s

/-- RX_CLEAR (R81): the pending bytes go; the capacity and the bytes still on the line stay. -/
def execRxClear (s : State) : StepOutcome :=
  requireOpen s <| complete .ok .none { s with rx := { s.rx with first := 0, last := 0 } }

end Sys2Proof.Machine
end

