-- ==== Sys2Proof/Machine/Dispatch.lean ====
section
/-! DEFINITION. One arm per operation. -/

namespace Sys2Proof.Machine

def exec (i : Instr) (s : State) : Host.Outcome State Fault Refusal :=
  match i with
  -- LINK
  | .linkOpen baud parity databits stop => Sys2Proof.Machine.execLinkOpen baud parity databits stop s
  | .linkWrite bytes => Sys2Proof.Machine.execLinkWrite bytes s
  | .linkSetTimeout ms => Sys2Proof.Machine.execLinkSetTimeout ms s
  | .linkPulseReset => Sys2Proof.Machine.execLinkPulseReset s
  | .linkClose => Sys2Proof.Machine.execLinkClose s
  -- RXB
  | .rxReadOne => Sys2Proof.Machine.execRxReadOne s
  | .rxAvailable => Sys2Proof.Machine.execRxAvailable s
  | .rxClear => Sys2Proof.Machine.execRxClear s
  -- ENC
  | .encode len payload => Sys2Proof.Machine.execEncode len payload s
  -- CRC
  | .crcClear => Sys2Proof.Machine.execCrcClear s
  | .crcStep b => Sys2Proof.Machine.execCrcStep b s
  | .crcRead => Sys2Proof.Machine.execCrcRead s
  -- DEC
  | .decReset => Sys2Proof.Machine.execDecReset s
  | .decFeed b => Sys2Proof.Machine.execDecFeed b s
  | .decResult => Sys2Proof.Machine.execDecResult s
  -- PUT
  | .putU8 v => Sys2Proof.Machine.execPutU8 v s
  | .putI8 v => Sys2Proof.Machine.execPutI8 v s
  | .putU16 v => Sys2Proof.Machine.execPutU16 v s
  | .putI16 v => Sys2Proof.Machine.execPutI16 v s
  | .putU32 v => Sys2Proof.Machine.execPutU32 v s
  | .putI32 v => Sys2Proof.Machine.execPutI32 v s
  -- GET
  | .getU8 => Sys2Proof.Machine.execGetU8 s
  | .getI8 => Sys2Proof.Machine.execGetI8 s
  | .getU16 => Sys2Proof.Machine.execGetU16 s
  | .getI16 => Sys2Proof.Machine.execGetI16 s
  | .getU32 => Sys2Proof.Machine.execGetU32 s
  | .getI32 => Sys2Proof.Machine.execGetI32 s
  -- the READER's and the TIMER's steps
  | .evtRxDeliver b => Sys2Proof.Machine.execEvtRxDeliver b s
  | .evtTimer => Sys2Proof.Machine.execEvtTimer s

end Sys2Proof.Machine
end

