-- ==== Sys2Proof/Machine/Agents.lean ====
section
/-! DEFINITION. The agents' turns (00_scope.md R13, R14, 60_exceptions.md R129) and the block's step over the schedule. -/

namespace Sys2Proof.Machine

/-- ENV_RX (41_rxbuf.md R76): the byte joins `rx_line`, or is lost on a closed line. -/
def envReceive (b : Byte) (s : State) : State :=
  if s.linkOpen then { s with rx := { s.rx with line := s.rx.line ++ [b] } } else s

/-- Run a transaction of the client, or refuse it (30_encoding.md R64). -/
def issue (t : Transaction) (s : State) : StepOutcome :=
  match decodeClient t with
  | .ok i => exec i s
  | .error _ => refuse s

/-- The CLIENT's turn: while a read holds it is retried and nothing else is issued (10_state.md R35, 41_rxbuf.md R78);
otherwise the next transaction of the program. A client with nothing to issue idles. DESIGN CHOICE (log entry 20): R12 and
R13 give a read that still holds no step; here a turn that retries it on a buffer still empty is an idle step, which uses
up the turn and changes nothing else. -/
def clientTurn (s : State) : StepOutcome :=
  match s.pend, s.outside.program with
  | .readOne, _ => exec .rxReadOne s
  | .none, t :: ts => issue t { s with outside := { s.outside with program := ts } }
  | .none, [] => .next s

/-- The READER's or TIMER's turn. A word that names no step of theirs moves nothing. -/
def eventTurn (w : OpWord) (s : State) : StepOutcome :=
  match decodeEvent w with
  | .ok i => exec i s
  | .error _ => .next s

/-- One agent's atomic step (00_scope.md R13). -/
def takeTurn (t : Turn) (s : State) : StepOutcome :=
  match t with
  | .client => clientTurn s
  | .event w => eventTurn w s
  | .envRx b => .next (envReceive b s)

/-- The block's step when the next turn is `t`: none where the block is quiescent (60_exceptions.md R117, R118). -/
def turnStep (t : Turn) (s : State) : StepOutcome :=
  match quiescence s with
  | some o => o
  | none => takeTurn t s

/-- The block's step: the next turn of the schedule. Where nobody is scheduled the block waits (70_reset_and_hazards.md
R132). -/
def blockStep (s : State) : StepOutcome :=
  match quiescence s with
  | some o => o
  | none =>
    match s.outside.schedule with
    | [] => .next s
    | t :: ts => takeTurn t { s with outside := { s.outside with schedule := ts } }

/-- Put an operation where the next step takes it: a client's transaction at the head of its program, with the client's
turn next and no read holding it up; an event word as the next turn. -/
def placeWord (s : State) (nbits w : Nat) : State :=
  if opField (tableWord nbits w) = 15 then
    { s with outside := { s.outside with schedule := .event (tableWord nbits w) :: s.outside.schedule } }
  else
    { s with
      pend := .none
      outside :=
        { s.outside with
          program := tableTransaction nbits w :: s.outside.program
          schedule := .client :: s.outside.schedule } }

end Sys2Proof.Machine
end

