-- ==== Sys2Proof/Machine/Step.lean ====
section
/-! DEFINITION. The machine's one step, and the host's way to place an operation where that step takes it. -/

namespace Sys2Proof.Machine

/-- One atomic step of the block (00_scope.md R13). -/
def step (s : State) : Host.Outcome State Fault Refusal := blockStep s

/-- `s` with the operation whose bits are `w` as the next one to run. -/
def State.withFetchWord (s : State) (nbits w : Nat) : State := placeWord s nbits w

end Sys2Proof.Machine
end

