-- ==== Sys2Proof/Machine/Client.lean ====
section
/-! DEFINITION. The client's notation: the operand letters of the assembly (30_encoding.md R66), the pseudo-operations and
their expansions (R67), and operations issued one after another. Host-side control is the client's and is not encoded: the loop
of RECV_FRAME appears as the reads and feeds it performed, and its control is a function of the records they returned. -/

namespace Sys2Proof.Machine

/-- The parity letters of R66, with the encodings of 10_state.md R20. -/
inductive ParityLetter where
  | N
  | E
  | O
  deriving DecidableEq, Repr

/-- The encodings of 10_state.md R20. -/
def ParityLetter.operand : ParityLetter → Byte
  | .N => 0
  | .E => 1
  | .O => 2

/-- The stop bits of R66: 1, 1.5 or 2. -/
inductive StopBits where
  | one
  | oneAndHalf
  | two
  deriving DecidableEq, Repr

/-- Half-bit units (10_state.md R20). -/
def StopBits.operand : StopBits → Byte
  | .one => 2
  | .oneAndHalf => 3
  | .two => 4

/-- `LINK_OPEN baud, parity, databits, stop` as R66 writes it. -/
def asmLinkOpen (baud : Word32) (parity : ParityLetter) (databits : Byte) (stop : StopBits) : Instr :=
  .linkOpen baud parity.operand databits stop.operand

/-- `ENCODE [p0 ... pL-1]` sets `imm` from the list (R66). -/
def asmEncode (payload : List Byte) : Instr := .encode (BitVec.ofNat 8 payload.length) payload

/-- SEND (R67): ENCODE the payload, then LINK_WRITE the frame it returned. -/
def sendOps (payload : List Byte) : List Instr := [asmEncode payload, .linkWrite (frameOf payload)]

/-- CRC_BLOCK (R67). -/
def crcBlockOps (bytes : List Byte) : List Instr := [.crcClear] ++ bytes.map .crcStep ++ [.crcRead]

/-- FEED_ALL (R67). -/
def feedAllOps (bytes : List Byte) : List Instr := bytes.map .decFeed

/-- RECV_FRAME's host control (R67): the operation issued after the record of the one before it, at the loop's start where
there is none. A byte read is fed; `done` 0 goes to `loop:`; TIMEOUT and `done` 1 go to `out:`, where nothing is issued. -/
def recvFrameNext : Option Result → Option Instr
  | none => some .rxReadOne
  | some ⟨.ok, .byte b⟩ => some (.decFeed b)
  | some ⟨.ok, .bit false⟩ => some .rxReadOne
  | some _ => none

/-- Operations with the records they returned are a whole RECV_FRAME after the record `last`: each is the one the host
control issues, and after the last one it is out. -/
def isRecvFrame (last : Option Result) : List (Instr × Result) → Bool
  | [] => recvFrameNext last == none
  | (i, r) :: rest => recvFrameNext last == some i && isRecvFrame (some r) rest

/-- How RECV_FRAME left its loop (R67): on `done`, or on the TIMEOUT of a read. -/
inductive RecvExit where
  | done
  | timeout
  deriving DecidableEq, Repr

/-- RECV_FRAME (R67), for the bytes its reads returned and the way it ended: each byte is read and fed, and a read that
ends with TIMEOUT is the last operation, with no feed after it. -/
def recvFrameOps (bytes : List Byte) (exit : RecvExit) : List Instr :=
  bytes.flatMap (fun b => [.rxReadOne, .decFeed b])
    ++ match exit with
       | .done => []
       | .timeout => [.rxReadOne]

/-- EXCHANGE (R67), for the bytes its reads returned and the way its RECV_FRAME ended: DEC_RESULT follows either way. -/
def exchangeOps (payload bytes : List Byte) (exit : RecvExit) : List Instr :=
  [.decReset] ++ sendOps payload ++ recvFrameOps bytes exit ++ [.decResult]

/-- Operations issued one after another. A quiescent block takes none of them (60_exceptions.md R117, R118), and while a
read holds no further one is issued (10_state.md R35). -/
def runOps : List Instr → State → StepOutcome
  | [], s => .next s
  | i :: is, s =>
    match quiescence s with
    | some o => o
    | none =>
      match s.pend with
      | .readOne => .next s
      | .none =>
        match exec i s with
        | .next t => runOps is t
        | .fault k => .fault k
        | .refused r => .refused r

end Sys2Proof.Machine
end

