-- ==== Sys2Proof/Machine/Line.lean ====
section
/-! DEFINITION. The serial line: the character that carries one byte, and the level of the line over time (20_memory.md
R43). PRESUMED: the spec takes the bit order and the levels from general knowledge (D24, log entry 15); no operation reads
them. -/

namespace Sys2Proof.Machine

/-- The 8 data bits, least significant first. -/
def characterData (b : Byte) : List Bool := (List.range 8).map b.getLsbD

/-- Whether the data bits hold an odd number of ones: the parity bit that makes the total even. -/
def evenParityBit (b : Byte) : Bool := (characterData b).foldl Bool.xor false

/-- The parity bit of a configuration: none for N, even for E, odd for O (10_state.md R20). -/
def parityBits (cfg : LineConfig) (b : Byte) : List Bool :=
  if cfg.parity = 1 then [evenParityBit b] else if cfg.parity = 2 then [!evenParityBit b] else []

/-- The levels of one character in half-bits, in time: a low start bit, the data bits, the parity bit if any, and
`cfg.stop` high half-bits. -/
def characterLevels (cfg : LineConfig) (b : Byte) : List Bool :=
  ([false] ++ characterData b ++ parityBits cfg b).flatMap (fun level => [level, level])
    ++ List.replicate cfg.stop.toNat true

/-- The length of a character in half-bits, `2 * (1 + 8 + p) + 2 * s` with `s` stop bits: the character time of
70_reset_and_hazards.md R149 is this over `2 * baud` seconds. -/
def characterHalfBits (cfg : LineConfig) : Nat :=
  2 * (1 + 8 + (if cfg.parity = 1 ∨ cfg.parity = 2 then 1 else 0)) + cfg.stop.toNat

/-- The level of the line while no character is on it: high (R43). -/
def idleLevel : Bool := true

/-- One byte of the line's traffic: how many half-bits the line idles before the character, and the byte. DESIGN CHOICE
(log entry 15): idle time in whole half-bits. -/
structure Sending where
  gap : Nat
  byte : Byte
  deriving DecidableEq, Repr

/-- The levels of the line in half-bits from the first gap to the last stop bit, in one configuration. On TXD the bytes
are those of `tx_hist` (60_exceptions.md R127); the gaps are the world's, since the block keeps no time (R149). -/
def lineLevels (cfg : LineConfig) (traffic : List Sending) : List Bool :=
  traffic.flatMap fun x => List.replicate x.gap idleLevel ++ characterLevels cfg x.byte

/-- The level of the line at half-bit `t`: that of the traffic, and idle once it is over. -/
def lineLevelAt (cfg : LineConfig) (traffic : List Sending) (t : Nat) : Bool :=
  (lineLevels cfg traffic)[t]?.getD idleLevel

end Sys2Proof.Machine
end

