-- ==== Sys2Proof/Machine/Payload.lean ====
section
/-! DEFINITION. The payload layouts of 30_encoding.md R56 to R60. The block carries payloads without interpreting them:
no operation reads these definitions; they name the bytes a client sends. -/

namespace Sys2Proof.Machine

/-- The master commands of R58. -/
inductive MasterCommand where
  | version | init | getBufferSize | clearBuffer | getPosition | getRange | setRange | abort | pause | probe
  | toolQuery | isFinished
  | queuePointAbs | setPosition | findAxesMinimum | findAxesMaximum | delay | changeTool | waitForTool | toolCommand
  | enableAxes
  deriving DecidableEq, Repr

/-- The byte values of R58. -/
def MasterCommand.code : MasterCommand → Byte
  | .version => 0
  | .init => 1
  | .getBufferSize => 2
  | .clearBuffer => 3
  | .getPosition => 4
  | .getRange => 5
  | .setRange => 6
  | .abort => 7
  | .pause => 8
  | .probe => 9
  | .toolQuery => 10
  | .isFinished => 11
  | .queuePointAbs => 129
  | .setPosition => 130
  | .findAxesMinimum => 131
  | .findAxesMaximum => 132
  | .delay => 133
  | .changeTool => 134
  | .waitForTool => 135
  | .toolCommand => 136
  | .enableAxes => 137

/-- The tool commands of R59. -/
inductive ToolSub where
  | version | init | getTemp | setTemp | setMotor1Pwm | setMotor2Pwm | setMotor1Rpm | setMotor2Rpm | setMotor1Dir
  | setMotor2Dir | toggleMotor1 | toggleMotor2 | toggleFan | toggleValve | setServo1Pos | setServo2Pos
  | filamentStatus | getMotor1Rpm | getMotor2Rpm | getMotor1Pwm | getMotor2Pwm | selectTool | isToolReady
  deriving DecidableEq, Repr

/-- The byte values of R59. -/
def ToolSub.code : ToolSub → Byte
  | .version => 0
  | .init => 1
  | .getTemp => 2
  | .setTemp => 3
  | .setMotor1Pwm => 4
  | .setMotor2Pwm => 5
  | .setMotor1Rpm => 6
  | .setMotor2Rpm => 7
  | .setMotor1Dir => 8
  | .setMotor2Dir => 9
  | .toggleMotor1 => 10
  | .toggleMotor2 => 11
  | .toggleFan => 12
  | .toggleValve => 13
  | .setServo1Pos => 14
  | .setServo2Pos => 15
  | .filamentStatus => 16
  | .getMotor1Rpm => 17
  | .getMotor2Rpm => 18
  | .getMotor1Pwm => 19
  | .getMotor2Pwm => 20
  | .selectTool => 21
  | .isToolReady => 22

/-- A request payload, `CMD | args` (R56). -/
def request (cmd : MasterCommand) (args : List Byte) : List Byte := cmd.code :: args

/-- A tool-routed request, `CMD | TOOL_INDEX | SUBCMD | SUBLEN | subargs`; CMD is TOOL_QUERY for a query and
TOOL_COMMAND otherwise (R56). -/
def toolRequest (query : Bool) (tool : Byte) (sub : ToolSub) (subargs : List Byte) : List Byte :=
  request (if query then .toolQuery else .toolCommand) ([tool, sub.code, BitVec.ofNat 8 subargs.length] ++ subargs)

/-- A mask of axes: bit 0 X, bit 1 Y, bit 2 Z (R60). -/
def axesMask (x y z : Bool) : Byte :=
  (if x then 1 else 0) ||| (if y then 2 else 0) ||| (if z then 4 else 0)

/-- VERSION: the host protocol version, u16 (R60). -/
def versionRequest (v : Int) : List Byte := request .version (put 2 v)

/-- QUEUE_POINT_ABS: sx, sy, sz and dda_micros, i32 each (R60). -/
def queuePointAbsRequest (sx sy sz ddaMicros : Int) : List Byte :=
  request .queuePointAbs (put 4 sx ++ put 4 sy ++ put 4 sz ++ put 4 ddaMicros)

/-- SET_POSITION: sx, sy and sz, i32 each (R60). -/
def setPositionRequest (sx sy sz : Int) : List Byte := request .setPosition (put 4 sx ++ put 4 sy ++ put 4 sz)

/-- FIND_AXES_MINIMUM: flags u8, micros u32, timeout_s u16 (R60). -/
def findAxesMinimumRequest (flags : Byte) (micros timeoutS : Int) : List Byte :=
  request .findAxesMinimum (flags :: (put 4 micros ++ put 2 timeoutS))

/-- DELAY: ms, u32 (R60). -/
def delayRequest (ms : Int) : List Byte := request .delay (put 4 ms)

/-- ENABLE_AXES: bit 7 enables, bits 0 to 2 name the axes (R60). -/
def enableAxesRequest (enable x y z : Bool) : List Byte :=
  request .enableAxes [(if enable then 0x80 else 0) ||| axesMask x y z]

/-- CHANGE_TOOL: idx, u8 (R60). -/
def changeToolRequest (idx : Byte) : List Byte := request .changeTool [idx]

/-- WAIT_FOR_TOOL: idx u8, ping_ms u16, timeout_s u16 (R60). -/
def waitForToolRequest (idx : Byte) (pingMs timeoutS : Int) : List Byte :=
  request .waitForTool (idx :: (put 2 pingMs ++ put 2 timeoutS))

/-- PAUSE: no arguments (R60). -/
def pauseRequest : List Byte := request .pause []

end Sys2Proof.Machine
end

