-- ==== Sys2Proof/Safety.lean ====
section
/-! DEFINITION. What the claims speak of: live states, the invariants of 10_state.md R24 and 44_decoder.md R94, runs over
arbitrary turns, and the weak fairness of 41_rxbuf.md R77 and R79. -/

namespace Sys2Proof.Machine

/-- `fault = ∅` and `refused = 0`: the premise of every claim (60_exceptions.md R117, R118). -/
def State.live (s : State) : Prop := s.fault = [] ∧ s.refused = false

/-- The cursor and capacity bounds of R24. -/
structure RxBounds (s : State) : Prop where
  first_le_last : s.rx.first ≤ s.rx.last
  last_le_cap : s.rx.last ≤ s.rx.cap
  cap_le_max : s.rx.cap ≤ s.params.maxCap
  cap_doubled : ∃ j, s.rx.cap = s.params.initCap * 2 ^ j

/-- The storage of `rxbuf`: in canonical form, within the capacity, and holding every pending byte. -/
structure RxStored (s : State) : Prop where
  canonical : s.rx.buf.wf = true
  within : ∀ a, s.rx.cap ≤ a → s.rx.buf.listed a = none
  pendingListed : ∀ a, s.rx.first ≤ a → a < s.rx.last → (s.rx.buf.listed a).isSome = true

/-- The decoder invariants of R94. -/
structure DecoderInv (d : DecUnit) : Prop where
  crc_of_work : d.crc = crc8 d.work
  idle_empty : d.state = .awaitStart ∨ d.state = .awaitLength → d.work = []
  in_payload : d.state = .inPayload → 1 ≤ d.rem.toNat ∧ d.work.length + d.rem.toNat = d.len.toNat
  in_crc : d.state = .awaitCrc → d.work.length = d.len.toNat

/-- The result registers and the field cursor (10_state.md R29, R30, 45_fields.md R100). -/
structure ResultInv (s : State) : Prop where
  payload_short : s.res.payload.length ≤ 255
  only_good : s.res.status ≠ .frameOk → s.res.payload = []
  cursor_in_data : s.fldCursor.toNat ≤ (responseData s.res).length

/-- The line: its configuration, its queue and the read that may hold on it (10_state.md R20, R25, R35). -/
structure LinkInv (s : State) : Prop where
  databits_eight : s.cfg.databits = 8
  open_legal : s.linkOpen = true →
    s.cfg.baud ≠ 0 ∧ s.cfg.parity.toNat ≤ 2 ∧ (s.cfg.stop = 2 ∨ s.cfg.stop = 3 ∨ s.cfg.stop = 4)
  closed_empty : s.linkOpen = false → s.rx.line = []
  held_open : s.pend = .readOne → s.linkOpen = true

/-- What every step keeps. -/
structure Inv (s : State) : Prop where
  capacity_positive : 1 ≤ s.params.initCap
  bounds : RxBounds s
  rewound : s.rx.first = s.rx.last → s.rx.first = 0
  stored : RxStored s
  decoder : DecoderInv s.dec
  result : ResultInv s
  link : LinkInv s
  one_fault : s.fault.length ≤ 1

/-- A byte that RX_READ_ONE returned, if the record is of that form. -/
def Result.readByte (r : Result) : Option Byte :=
  match r.status, r.value with
  | .ok, .byte b => some b
  | _, _ => none

/-- The table T of 43_crc.md R87: row = high nibble, column = low nibble. -/
def crcTable : List Byte :=
  [0x00, 0x5E, 0xBC, 0xE2, 0x61, 0x3F, 0xDD, 0x83, 0xC2, 0x9C, 0x7E, 0x20, 0xA3, 0xFD, 0x1F, 0x41] ++
  [0x9D, 0xC3, 0x21, 0x7F, 0xFC, 0xA2, 0x40, 0x1E, 0x5F, 0x01, 0xE3, 0xBD, 0x3E, 0x60, 0x82, 0xDC] ++
  [0x23, 0x7D, 0x9F, 0xC1, 0x42, 0x1C, 0xFE, 0xA0, 0xE1, 0xBF, 0x5D, 0x03, 0x80, 0xDE, 0x3C, 0x62] ++
  [0xBE, 0xE0, 0x02, 0x5C, 0xDF, 0x81, 0x63, 0x3D, 0x7C, 0x22, 0xC0, 0x9E, 0x1D, 0x43, 0xA1, 0xFF] ++
  [0x46, 0x18, 0xFA, 0xA4, 0x27, 0x79, 0x9B, 0xC5, 0x84, 0xDA, 0x38, 0x66, 0xE5, 0xBB, 0x59, 0x07] ++
  [0xDB, 0x85, 0x67, 0x39, 0xBA, 0xE4, 0x06, 0x58, 0x19, 0x47, 0xA5, 0xFB, 0x78, 0x26, 0xC4, 0x9A] ++
  [0x65, 0x3B, 0xD9, 0x87, 0x04, 0x5A, 0xB8, 0xE6, 0xA7, 0xF9, 0x1B, 0x45, 0xC6, 0x98, 0x7A, 0x24] ++
  [0xF8, 0xA6, 0x44, 0x1A, 0x99, 0xC7, 0x25, 0x7B, 0x3A, 0x64, 0x86, 0xD8, 0x5B, 0x05, 0xE7, 0xB9] ++
  [0x8C, 0xD2, 0x30, 0x6E, 0xED, 0xB3, 0x51, 0x0F, 0x4E, 0x10, 0xF2, 0xAC, 0x2F, 0x71, 0x93, 0xCD] ++
  [0x11, 0x4F, 0xAD, 0xF3, 0x70, 0x2E, 0xCC, 0x92, 0xD3, 0x8D, 0x6F, 0x31, 0xB2, 0xEC, 0x0E, 0x50] ++
  [0xAF, 0xF1, 0x13, 0x4D, 0xCE, 0x90, 0x72, 0x2C, 0x6D, 0x33, 0xD1, 0x8F, 0x0C, 0x52, 0xB0, 0xEE] ++
  [0x32, 0x6C, 0x8E, 0xD0, 0x53, 0x0D, 0xEF, 0xB1, 0xF0, 0xAE, 0x4C, 0x12, 0x91, 0xCF, 0x2D, 0x73] ++
  [0xCA, 0x94, 0x76, 0x28, 0xAB, 0xF5, 0x17, 0x49, 0x08, 0x56, 0xB4, 0xEA, 0x69, 0x37, 0xD5, 0x8B] ++
  [0x57, 0x09, 0xEB, 0xB5, 0x36, 0x68, 0x8A, 0xD4, 0x95, 0xCB, 0x29, 0x77, 0xF4, 0xAA, 0x48, 0x16] ++
  [0xE9, 0xB7, 0x55, 0x0B, 0x88, 0xD6, 0x34, 0x6A, 0x2B, 0x75, 0x97, 0xC9, 0x4A, 0x14, 0xF6, 0xA8] ++
  [0x74, 0x2A, 0xC8, 0x96, 0x15, 0x4B, 0xA9, 0xF7, 0xB6, 0xE8, 0x0A, 0x54, 0xD7, 0x89, 0x6B, 0x35]

/-- The operations behind the link guard of 40_link.md R68. -/
def needsOpenLine : Instr → Prop
  | .linkWrite _ => True
  | .linkSetTimeout _ => True
  | .linkPulseReset => True
  | .rxReadOne => True
  | .rxAvailable => True
  | .rxClear => True
  | _ => False

/-- The ENC, CRC, DEC and FLD operations, which need no line (70_reset_and_hazards.md R147). -/
def isCodecOp : Instr → Prop
  | .encode _ _ => True
  | .crcClear => True
  | .crcStep _ => True
  | .crcRead => True
  | .decReset => True
  | .decFeed _ => True
  | .decResult => True
  | .putU8 _ => True
  | .putI8 _ => True
  | .putU16 _ => True
  | .putI16 _ => True
  | .putU32 _ => True
  | .putI32 _ => True
  | .getU8 => True
  | .getI8 => True
  | .getU16 => True
  | .getI16 => True
  | .getU32 => True
  | .getI32 => True
  | _ => False

/-- The field types of PUT and GET (30_encoding.md R63). -/
inductive FieldType where
  | u8
  | i8
  | u16
  | i16
  | u32
  | i32
  deriving DecidableEq, Repr

/-- The width in bytes (R63). -/
def FieldType.width : FieldType → Nat
  | .u8 | .i8 => 1
  | .u16 | .i16 => 2
  | .u32 | .i32 => 4

/-- Whether the type is two's complement (00_scope.md R10). -/
def FieldType.signed : FieldType → Bool
  | .u8 | .u16 | .u32 => false
  | .i8 | .i16 | .i32 => true

/-- The PUT operation of the type, with its operand. -/
def FieldType.putOp : FieldType → Int → Instr
  | .u8 => .putU8
  | .i8 => .putI8
  | .u16 => .putU16
  | .i16 => .putI16
  | .u32 => .putU32
  | .i32 => .putI32

/-- The GET operation of the type. -/
def FieldType.getOp : FieldType → Instr
  | .u8 => .getU8
  | .i8 => .getI8
  | .u16 => .getU16
  | .i16 => .getI16
  | .u32 => .getU32
  | .i32 => .getI32

/-- The values of the type: `[0, 2^N)` or `[-2^(N-1), 2^(N-1))` with N = 8 * width (00_scope.md R10). -/
def FieldType.holds (T : FieldType) (v : Int) : Prop :=
  if T.signed then -(2 ^ (8 * T.width - 1) : Int) ≤ v ∧ v < 2 ^ (8 * T.width - 1)
  else 0 ≤ v ∧ v < 2 ^ (8 * T.width)

/-- The situation in which an operation raises a fault kind (60_exceptions.md R116), for an operation on a state. -/
def raisedAsTabled (k : Fault) (i : Instr) (s : State) : Prop :=
  match k with
  | .notOpen => s.linkOpen = false ∧ needsOpenLine i
  | .doubleOpen => s.linkOpen = true ∧ ∃ baud parity databits stop, i = .linkOpen baud parity databits stop
  | .rxOverflow => s.rx.last = s.rx.cap ∧ s.params.maxCap ≤ s.rx.cap ∧ ∃ b, i = .evtRxDeliver b
  | .noFrame => s.res.status ≠ .frameOk ∧ ∃ T : FieldType, i = T.getOp
  | .fieldUnderrun =>
    s.res.status = .frameOk
      ∧ ∃ T : FieldType, i = T.getOp ∧ s.res.payload.length - 1 < s.fldCursor.toNat + T.width

/-- The histories and result records with something before them. -/
def withEarlier (tx : List Byte) (dtr : List Bool) (rs : List Result) (s : State) : State :=
  { s with txHist := tx ++ s.txHist, dtrHist := dtr ++ s.dtrHist, results := rs ++ s.results }

/-- A function applied to the next state, where there is one. -/
def mapNext (f : State → State) : StepOutcome → StepOutcome
  | .next s => .next (f s)
  | .fault k => .fault k
  | .refused r => .refused r

/-- What a LINK_WRITE of these bytes puts on the line under an answer (40_link.md R72). -/
def sentBytes (bytes : List Byte) : Config.WriteOutcome → List Byte
  | .ok => bytes
  | .ioError k => bytes.take k

/-- One bit of one byte of a list turned over: a one-bit error on the line (44_decoder.md R98). -/
def flipBit (l : List Byte) (j k : Nat) : List Byte := l.modify j fun b => b ^^^ BitVec.twoPow 8 k

/-- The result records of DEC_FEED's `done` bits, in order (44_decoder.md R93). -/
def doneRecords (bits : List Bool) : List Result := bits.map fun d => ⟨.ok, .bit d⟩

/-- The result records of reads that returned these bytes (41_rxbuf.md R78). -/
def readRecords (bytes : List Byte) : List Result := bytes.map fun b => ⟨.ok, .byte b⟩

/-- The state after a list of turns: any agents' steps, in that order (00_scope.md R13). -/
def runTurns : List Turn → State → StepOutcome
  | [], s => .next s
  | turn :: turns, s =>
    match turnStep turn s with
    | .next t => runTurns turns t
    | .fault k => .fault k
    | .refused r => .refused r

/-- The bytes ENV sends in a list of turns (41_rxbuf.md R76). -/
def sentByEnv (turns : List Turn) : List Byte :=
  turns.filterMap fun turn => match turn with | .envRx b => some b | _ => none

/-- The result records of a RECV_FRAME whose reads returned these bytes and whose feeds gave these `done` bits: a read's
record and then the feed's, byte by byte, and on a timeout the last read's (30_encoding.md R67). -/
def recvRecords (bytes : List Byte) (bits : List Bool) (exit : RecvExit) : List Result :=
  (List.zip bytes bits).flatMap (fun p => [⟨.ok, .byte p.1⟩, ⟨.ok, .bit p.2⟩])
    ++ match exit with
       | .done => []
       | .timeout => [⟨.timeout, .none⟩]

/-- `t` follows `s` by the turns of an infinite schedule: the runs of 00_scope.md R13, with any agent's step next. -/
def IsRun (turns : Nat → Turn) (f : Nat → State) : Prop := ∀ n, turnStep (turns n) (f n) = .next (f (n + 1))

/-- Weak fairness (R77, R79): a step that stays enabled is eventually taken. -/
def WeaklyFair (enabled : State → Prop) (takes : Turn → State → Prop) (turns : Nat → Turn) (f : Nat → State) : Prop :=
  ∀ n, (∀ m, n ≤ m → enabled (f m)) → ∃ m, n ≤ m ∧ takes (turns m) (f m)

/-- The TIMER's fairness (R79): its step is the event word 0xF100. -/
def TimerFair (turns : Nat → Turn) (f : Nat → State) : Prop :=
  WeaklyFair (fun s => timerEnabled s = true) (fun t _ => t = .event 0xF100) turns f

/-- The READER's fairness (R77): its step is the event word 0xF0bb for the head of the line. -/
def ReaderFair (turns : Nat → Turn) (f : Nat → State) : Prop :=
  WeaklyFair (fun s => ∃ b, readerEnabled b s = true)
    (fun t s => ∃ b, readerEnabled b s = true ∧ t = .event (opWord 15 0 b)) turns f

end Sys2Proof.Machine
end

