-- ==== Sys2Proof/Certificates/Slice0/Obligations.lean ====
section
/-! DEFINITION. The statements for the provers. Each docstring names the rules of spec/ the statement rests on; where the
model chose a convention, the log entry. -/

open Sys2Proof Sys2Proof.Machine

/-! ## Encodings -/

/-- Decoding the transaction that spells a well-formed operation gives the operation back (30_encoding.md R61 to R63),
for every operation and every operand value. -/
def Obligations.DecodeInvertsEncode : Prop :=
  ∀ i : Instr, i.wellFormed = true → decode (encode i) = .ok i

/-- What decodes is a well-formed operation, and the transaction is the one that spells it: no transaction has two
meanings (R61 to R64). -/
def Obligations.DecodedTransactionsReencode : Prop :=
  ∀ (t : Transaction) (i : Instr), decode t = .ok i → i.wellFormed = true ∧ encode i = t

/-- The byte form of a well-formed operation decodes to it: multi-byte operands are little-endian (R62, decision D31).
That the word lies low byte first is the model's choice (log entry 9). -/
def Obligations.ByteFormDecodesBack : Prop :=
  ∀ i : Instr, i.wellFormed = true → decodeBytes (encodeBytes i) = .ok i

/-- Words written out from the opcode map of R63 decode to their rows. -/
def Obligations.OpcodeMapWordsDecode : Prop :=
  decodeClient ⟨0x1000, [38400, 0, 8, 2]⟩ = .ok (.linkOpen 38400 0 8 2)
    ∧ decodeClient ⟨0x2000, []⟩ = .ok .rxReadOne
    ∧ decodeClient ⟨0x3002, [0x89, 0x87]⟩ = .ok (.encode 2 [0x89, 0x87])
    ∧ decodeClient ⟨0x41D8, []⟩ = .ok (.crcStep 0xD8)
    ∧ decodeClient ⟨0x5165, []⟩ = .ok (.decFeed 0x65)
    ∧ decodeClient ⟨0x6500, [-15000]⟩ = .ok (.putI32 (-15000))
    ∧ decodeClient ⟨0x7300, []⟩ = .ok .getI16
    ∧ decodeEvent 0xF07A = .ok (.evtRxDeliver 0x7A)

/-- A client transaction that no operation of the client spells is refused when its turn comes: the mark is set, the
transaction is gone, and nothing else changes; there is no result record (R64, R118, decisions D3 and D40). -/
def Obligations.IllFormedTransactionsAreRefused : Prop :=
  ∀ (s : State) (t : Transaction) (ts : List Transaction) (rest : List Turn),
    s.live → s.pend = .none → s.outside.schedule = .client :: rest → s.outside.program = t :: ts →
    (∀ i : Instr, i.wellFormed = true → i.isEvent = false → encode i ≠ t) →
    step s = .next { s with refused := true, outside := { s.outside with schedule := rest, program := ts } }

/-- R64's word cases: a reserved `op`, an unlisted `sub`, an `imm` that must be 0 and is not, and an event word spell no
client operation, whatever the operands. -/
def Obligations.ReservedWordsSpellNothing : Prop :=
  ∀ (w : OpWord) (vs : List Int),
    (let op := (opField w).toNat
     let sub := (subField w).toNat
     (op = 0 ∨ 8 ≤ op)
      ∨ (op = 1 ∧ 4 < sub) ∨ (op = 2 ∧ 2 < sub) ∨ (op = 3 ∧ 0 < sub) ∨ (op = 4 ∧ 2 < sub) ∨ (op = 5 ∧ 2 < sub)
      ∨ (op = 6 ∧ 5 < sub) ∨ (op = 7 ∧ 5 < sub)
      ∨ (immField w ≠ 0 ∧ (op = 1 ∨ op = 2 ∨ op = 6 ∨ op = 7 ∨ ((op = 4 ∨ op = 5) ∧ sub ≠ 1)))) →
    ∀ i, decodeClient ⟨w, vs⟩ ≠ .ok i

/-! ## Steps, turns, quiescence -/

/-- The client's turn runs the operation its next transaction decodes to, on the state without that turn and that
transaction (00_scope.md R13, R14). -/
def Obligations.StepRunsTheDecodedOperation : Prop :=
  ∀ (s : State) (t : Transaction) (ts : List Transaction) (rest : List Turn) (i : Instr),
    s.live → s.pend = .none → s.outside.schedule = .client :: rest → s.outside.program = t :: ts →
    decodeClient t = .ok i →
    step s = exec i { s with outside := { s.outside with schedule := rest, program := ts } }

/-- A READER or TIMER turn runs the step its event word names, on the state without that turn (R14, R63). -/
def Obligations.StepRunsTheNamedEvent : Prop :=
  ∀ (s : State) (w : OpWord) (rest : List Turn) (i : Instr),
    s.live → s.outside.schedule = .event w :: rest → decodeEvent w = .ok i →
    step s = exec i { s with outside := { s.outside with schedule := rest } }

/-- While a read holds, the client's turn retries it and issues nothing: the program stays whole (10_state.md R35,
41_rxbuf.md R78). That the retry of a read that still holds takes an idle step is the model's choice (log entry 20). -/
def Obligations.HeldReadBlocksTheClient : Prop :=
  ∀ (s : State) (rest : List Turn),
    s.live → s.pend = .readOne → s.outside.schedule = .client :: rest →
    step s = exec .rxReadOne { s with outside := { s.outside with schedule := rest } }

/-- ENV's step: the byte joins the line queue of an open line and is lost on a closed one; nothing else changes
(41_rxbuf.md R76). -/
def Obligations.EnvByteJoinsTheOpenLine : Prop :=
  ∀ (s : State) (b : Byte) (rest : List Turn),
    s.live → s.outside.schedule = .envRx b :: rest →
    step s = .next
      { s with
        rx := { s.rx with line := if s.linkOpen then s.rx.line ++ [b] else s.rx.line }
        outside := { s.outside with schedule := rest } }

/-- A faulted or refused block takes no further step: the step stops with the fault kind, or with the refusal
(60_exceptions.md R117, R118; that the stop carries the kind is the model's choice, log entry 8). -/
def Obligations.QuiescentBlockStops : Prop :=
  ∀ s : State,
    (∀ k ks, s.fault = k :: ks → step s = .fault k)
      ∧ (s.fault = [] → s.refused = true → step s = .refused .noOperation)

/-! ## Reset and invariants -/

/-- What reset leaves, element by element (10_state.md R36, 70_reset_and_hazards.md R132; the values are the spec's own
decisions D8, D12, D13, D22, D27, D30, D39, D40). `cfg.baud`, `cfg.parity` and `cfg.stop` are unspecified there. -/
def Obligations.ResetLeavesTheTableValues : Prop :=
  let s := State.reset
  s.linkOpen = false ∧ s.cfg.databits = 8 ∧ s.timeoutMs = 0 ∧ s.dtr = true
    ∧ s.rx.first = 0 ∧ s.rx.last = 0 ∧ s.rx.cap = s.params.initCap ∧ s.rx.line = []
    ∧ s.crcAcc = 0x00
    ∧ s.dec.state = .awaitStart ∧ s.dec.len = 0 ∧ s.dec.rem = 0 ∧ s.dec.work = [] ∧ s.dec.crc = 0x00
    ∧ s.res.status = .none ∧ s.res.payload = [] ∧ s.fldCursor = 0
    ∧ s.fault = [] ∧ s.refused = false ∧ s.txHist = [] ∧ s.dtrHist = [] ∧ s.pend = .none

/-- The invariants hold at reset. -/
def Obligations.InvariantsHoldAtReset : Prop := Inv State.reset

/-- Every step keeps the invariants, whoever's turn it is: the buffer's bounds and its canonical storage, the decoder's
and the result registers' relations, the legal configuration of an open line, the hardwired data bits, and at most one
fault (10_state.md R20, R24, R25, R29, R30, 44_decoder.md R94, 60_exceptions.md R123). -/
def Obligations.EveryStepKeepsTheInvariants : Prop :=
  ∀ s t : State, Inv s → step s = .next t → Inv t

/-- R24: the cursor and capacity bounds hold at reset and every step keeps them. -/
def Obligations.EveryStepKeepsTheBufferBounds : Prop :=
  RxBounds State.reset ∧ ∀ s t : State, RxBounds s → step s = .next t → RxBounds t

/-- R94: the decoder invariants hold at reset and every step keeps them. -/
def Obligations.EveryStepKeepsTheDecoderInvariants : Prop :=
  DecoderInv State.reset.dec ∧ ∀ s t : State, DecoderInv s.dec → step s = .next t → DecoderInv t.dec

/-! ## Whole-machine rules -/

/-- The table of 60_exceptions.md R116: an operation adds a fault kind only in the situation that raises it (the kinds
are the spec's decision D7). -/
def Obligations.FaultsAreRaisedAsTabled : Prop :=
  ∀ (i : Instr) (s t : State) (k : Fault),
    exec i s = .next t → k ∈ t.fault → k ∉ s.fault → raisedAsTabled k i s

/-- The link guard (40_link.md R68): on a closed line each guarded operation records F_NOT_OPEN and does nothing else
(the fault is the spec's decision D16). -/
def Obligations.ClosedLineFaultsGuardedOperations : Prop :=
  ∀ (i : Instr) (s : State),
    needsOpenLine i → s.linkOpen = false → s.fault = [] → exec i s = .next { s with fault := [.notOpen] }

/-- No operation reads the histories or the result records, and each history is written by its one operation
(10_state.md R34; that the records are kept is the model's choice, log entry 4). -/
def Obligations.HistoriesAreOnlyWritten : Prop :=
  (∀ (i : Instr) (s : State) (tx : List Byte) (dtr : List Bool) (rs : List Result),
      exec i (withEarlier tx dtr rs s) = mapNext (withEarlier tx dtr rs) (exec i s))
    ∧ (∀ (i : Instr) (s t : State), exec i s = .next t →
        ((∀ bytes, i ≠ .linkWrite bytes) → t.txHist = s.txHist) ∧ (i ≠ .linkPulseReset → t.dtrHist = s.dtrHist))

/-- Only the READER writes `rxbuf`, and only at `rx_last` (20_memory.md R37): every other index reads as before. A
LINK_OPEN leaves the contents unspecified and is not spoken of. -/
def Obligations.OnlyTheReaderWritesStorage : Prop :=
  ∀ (i : Instr) (s t : State), exec i s = .next t → (∀ b p d st, i ≠ .linkOpen b p d st) →
    ∀ a, (∀ b, i = .evtRxDeliver b → a ≠ s.rx.last) → t.rx.buf.read a = s.rx.buf.read a

/-- The codec units are apart from the line: ENC, CRC, DEC and FLD operations leave the link, the receive path, DTR, the
transmit history and the pending read alone, and every other operation leaves the CRC, DEC and FLD state alone
(40_link.md R70, 70_reset_and_hazards.md R133, R147). -/
def Obligations.CodecAndLinkAreApart : Prop :=
  ∀ (i : Instr) (s t : State), exec i s = .next t →
    (isCodecOp i → t.linkOpen = s.linkOpen ∧ t.cfg = s.cfg ∧ t.timeoutMs = s.timeoutMs ∧ t.dtr = s.dtr ∧ t.rx = s.rx
        ∧ t.txHist = s.txHist ∧ t.dtrHist = s.dtrHist ∧ t.pend = s.pend ∧ t.refused = s.refused
        ∧ t.outside = s.outside)
      ∧ (¬ isCodecOp i → t.crcAcc = s.crcAcc ∧ t.dec = s.dec ∧ t.res = s.res ∧ t.fldCursor = s.fldCursor
        ∧ t.refused = s.refused)

/-! ## LINK -/

/-- LINK_OPEN of a legal configuration, answered OK, opens a fresh link (40_link.md R69, R70); every element not named is
unchanged. `drawOpen` is the environment's answer (log entry 7). -/
def Obligations.LinkOpenMakesAFreshLink : Prop :=
  ∀ (s : State) (baud : Word32) (parity databits stop : Byte),
    s.linkOpen = false → databits = 8 → (parity = 0 ∨ parity = 1 ∨ parity = 2) → (stop = 2 ∨ stop = 3 ∨ stop = 4) →
    baud ≠ 0 → (drawOpen s).1 = .ok →
    exec (.linkOpen baud parity databits stop) s = .next
      { s with
        linkOpen := true
        cfg := ⟨baud, BitVec.ofNat 2 parity.toNat, 8, BitVec.ofNat 3 stop.toNat⟩
        timeoutMs := 0
        rx := ⟨[], s.params.initCap, 0, 0, []⟩
        outside := (drawOpen s).2.outside
        results := s.results ++ [⟨.ok, .none⟩] }

/-- A failed LINK_OPEN returns its status and changes no state element of the block (R69, R71): the configuration check
comes first, then the environment's answer. A second LINK_OPEN records F_DOUBLE_OPEN and does nothing else (D15). -/
def Obligations.FailedLinkOpenChangesNothing : Prop :=
  ∀ (s : State) (baud : Word32) (parity databits stop : Byte),
    (s.linkOpen = true → s.fault = [] →
        exec (.linkOpen baud parity databits stop) s = .next { s with fault := [.doubleOpen] })
      ∧ (s.linkOpen = false → (databits ≠ 8 ∨ 3 ≤ parity.toNat ∨ stop.toNat ≤ 1 ∨ 5 ≤ stop.toNat ∨ baud = 0) →
        exec (.linkOpen baud parity databits stop) s =
          .next { s with results := s.results ++ [⟨.configError, .none⟩] })
      ∧ (s.linkOpen = false → databits = 8 → parity.toNat ≤ 2 → 2 ≤ stop.toNat → stop.toNat ≤ 4 → baud ≠ 0 →
        ∀ (o : Config.OpenOutcome) (st : Status), (drawOpen s).1 = o →
          ((o = .portNotFound ∧ st = .portNotFound) ∨ (o = .portInUse ∧ st = .portInUse)
            ∨ (o = .portOpenError ∧ st = .portOpenError)) →
          exec (.linkOpen baud parity databits stop) s =
            .next { s with outside := (drawOpen s).2.outside, results := s.results ++ [⟨st, .none⟩] })

/-- LINK_WRITE on an open line sends every byte, or fails with a prefix sent, as the environment answers (40_link.md
R72); nothing else changes. That an empty list too may end in IO_ERROR is the model's choice (log entry 21). -/
def Obligations.LinkWriteSendsItsBytes : Prop :=
  ∀ (s : State) (bytes : List Byte), s.linkOpen = true →
    exec (.linkWrite bytes) s = .next
      { s with
        txHist := s.txHist ++ sentBytes bytes (drawWrite s).1
        outside := (drawWrite s).2.outside
        results := s.results ++ [⟨if (drawWrite s).1 = .ok then .ok else .ioError, .none⟩] }

/-- Transmit order (20_memory.md R47 consequence 3): `tx_hist` grows by what each LINK_WRITE sent, in program order. -/
def Obligations.TransmitOrderIsProgramOrder : Prop :=
  ∀ (writes : List (List Byte × Config.WriteOutcome)) (s : State) (more : List Config.WriteOutcome),
    s.live → s.linkOpen = true → s.pend = .none → s.outside.writeAnswers = writes.map Prod.snd ++ more →
    ∃ t, runOps (writes.map fun w => .linkWrite w.1) s = .next t
      ∧ t.txHist = s.txHist ++ (writes.map fun w => sentBytes w.1 w.2).flatten

/-- LINK_SET_TIMEOUT, LINK_PULSE_RESET and LINK_CLOSE on an open line (40_link.md R73, R74, R75): what each writes, with
everything else unchanged. LINK_CLOSE leaves some DTR level (10_state.md R22; a free value, log entry 2). -/
def Obligations.LineControlOperationsAct : Prop :=
  ∀ s : State, s.linkOpen = true →
    (∀ ms, exec (.linkSetTimeout ms) s = .next { s with timeoutMs := ms, results := s.results ++ [⟨.ok, .none⟩] })
      ∧ exec .linkPulseReset s = .next
          { s with dtr := true, dtrHist := s.dtrHist ++ [false, true], results := s.results ++ [⟨.ok, .none⟩] }
      ∧ ∃ level, exec .linkClose s = .next
          { s with
            linkOpen := false
            rx := { s.rx with line := [] }
            dtr := level
            outside := { s.outside with draws := s.outside.draws + 1 }
            results := s.results ++ [⟨.ok, .none⟩] }

/-- LINK_CLOSE on a closed line completes with OK and changes nothing (R75: idempotent). -/
def Obligations.LinkCloseIsIdempotent : Prop :=
  ∀ s : State, s.linkOpen = false → exec .linkClose s = .next { s with results := s.results ++ [⟨.ok, .none⟩] }

/-! ## RXB -/

/-- RX_READ_ONE with a byte pending returns the byte at `rx_first` and advances the cursor, rewinding an emptied buffer
in the same step; the storage and everything else are unchanged (41_rxbuf.md R78, decision D9). -/
def Obligations.ReadOneTakesTheOldestByte : Prop :=
  ∀ s : State, s.linkOpen = true → s.rx.first < s.rx.last →
    exec .rxReadOne s = .next
      { s with
        rx :=
          { s.rx with
            first := if s.rx.first + 1 = s.rx.last then 0 else s.rx.first + 1
            last := if s.rx.first + 1 = s.rx.last then 0 else s.rx.last }
        pend := .none
        results := s.results ++ [⟨.ok, .byte (s.rx.buf.read s.rx.first)⟩] }

/-- RX_READ_ONE on an empty buffer holds: it returns nothing and only marks the read pending (R78, 10_state.md R35). -/
def Obligations.ReadOneHoldsOnAnEmptyBuffer : Prop :=
  ∀ s : State, s.linkOpen = true → s.rx.last ≤ s.rx.first → exec .rxReadOne s = .next { s with pend := .readOne }

/-- RX_AVAILABLE counts and RX_CLEAR discards the pending bytes; the capacity, the storage, the line queue and everything
else are unchanged (R80, R81). -/
def Obligations.AvailableCountsAndClearDiscards : Prop :=
  ∀ s : State, s.linkOpen = true →
    exec .rxAvailable s = .next { s with results := s.results ++ [⟨.ok, .count (s.rx.last - s.rx.first)⟩] }
      ∧ exec .rxClear s = .next
          { s with rx := { s.rx with first := 0, last := 0 }, results := s.results ++ [⟨.ok, .none⟩] }

/-- EVT_RX_DELIVER of the head of the line appends it at `rx_last`, doubling a full capacity below RXBUF_MAX_CAP; that
index then reads as the byte, every other index as before, and nothing else changes (41_rxbuf.md R77). -/
def Obligations.ReaderAppendsTheHeadOfTheLine : Prop :=
  ∀ (s : State) (b : Byte) (tail : List Byte),
    s.linkOpen = true → s.rx.line = b :: tail → (s.rx.last = s.rx.cap → s.rx.cap < s.params.maxCap) →
    ∃ buf, exec (.evtRxDeliver b) s = .next
        { s with
          rx := ⟨buf, if s.rx.last = s.rx.cap then 2 * s.rx.cap else s.rx.cap, s.rx.first, s.rx.last + 1, tail⟩ }
      ∧ ∀ a, buf.read a = if a = s.rx.last then b else s.rx.buf.read a

/-- A byte that finds the buffer full at RXBUF_MAX_CAP is dropped with F_RX_OVERFLOW: it has left the line, and nothing
else changes (R77, 60_exceptions.md R117, decision D8). -/
def Obligations.FullBufferDropsTheByte : Prop :=
  ∀ (s : State) (b : Byte) (tail : List Byte),
    s.linkOpen = true → s.rx.line = b :: tail → s.rx.last = s.rx.cap → s.params.maxCap ≤ s.rx.cap → s.fault = [] →
    exec (.evtRxDeliver b) s = .next { s with rx := { s.rx with line := tail }, fault := [.rxOverflow] }

/-- EVT_TIMER ends a read that holds on an empty buffer, with TIMEOUT; nothing else changes (41_rxbuf.md R79). -/
def Obligations.TimerEndsTheHeldRead : Prop :=
  ∀ s : State,
    s.pend = .readOne → s.rx.last = s.rx.first → s.timeoutMs ≠ 0 → s.params.hasReadTimeout = true →
    exec .evtTimer s = .next { s with pend := .none, results := s.results ++ [⟨.timeout, .none⟩] }

/-- Where R77 and R79 do not enable the READER or the TIMER there is no such step, and a turn given to it moves nothing
(that such a turn is an idle step is the model's choice, log entry 10). -/
def Obligations.DisabledAgentsMoveNothing : Prop :=
  ∀ s : State,
    (∀ b, (s.linkOpen = false ∨ s.rx.line.head? ≠ some b) → exec (.evtRxDeliver b) s = .next s)
      ∧ ((s.pend = .none ∨ s.rx.last ≠ s.rx.first ∨ s.timeoutMs = 0 ∨ s.params.hasReadTimeout = false) →
        exec .evtTimer s = .next s)

/-- With `n` bytes pending, the next `n` reads return them in order and none holds (41_rxbuf.md R82, 20_memory.md R47
consequence 2). -/
def Obligations.PendingBytesAreReadInOrder : Prop :=
  ∀ s : State, s.live → s.linkOpen = true → s.pend = .none →
    ∃ t, runOps (List.replicate s.pending.length .rxReadOne) s = .next t
      ∧ t.results = s.results ++ readRecords s.pending ∧ t.pend = .none ∧ t.rx.line = s.rx.line

/-- The FIFO law (41_rxbuf.md R82), for every interleaving of the four agents that starts with an open line and an empty
rewound buffer (as a LINK_OPEN or an RX_CLEAR leaves it) and ends without fault or refusal, in which the client issues
no RX_CLEAR and no LINK_CLOSE: of the bytes the line held or ENV sent, the READER appended a prefix; it is what was read
followed by what is pending; RX_AVAILABLE would return the number appended minus the number read; and the next reads
return the rest in order (where a read holds it is the first of them: its retry is the same read). -/
def Obligations.ReceiveBufferIsFifo : Prop :=
  ∀ (turns : List Turn) (s t : State),
    s.linkOpen = true → s.rx.first = 0 → s.rx.last = 0 →
    (∀ x ∈ s.outside.program, decodeClient x ≠ .ok .rxClear ∧ decodeClient x ≠ .ok .linkClose) →
    runTurns turns s = .next t → t.live →
    ∃ (appended : List Byte) (new : List Result),
      s.rx.line ++ sentByEnv turns = appended ++ t.rx.line
        ∧ t.results = s.results ++ new
        ∧ appended = new.filterMap Result.readByte ++ t.pending
        ∧ exec .rxAvailable t = .next
            { t with
              results := t.results
                ++ [⟨.ok, .count (appended.length - (new.filterMap Result.readByte).length)⟩] }
        ∧ ∃ u, runOps (List.replicate t.pending.length .rxReadOne) { t with pend := .none } = .next u
            ∧ u.results = t.results ++ readRecords (appended.drop (new.filterMap Result.readByte).length)

/-- A held read on a silent line ends: in every run in which the TIMER is weakly fair, a read that holds on a buffer that
stays empty, with a timeout on a platform that can time out, is ended with TIMEOUT (41_rxbuf.md R79). -/
def Obligations.SilentReadEventuallyTimesOut : Prop :=
  ∀ (turns : Nat → Turn) (f : Nat → State) (n : Nat),
    IsRun turns f → TimerFair turns f →
    (f n).linkOpen = true → (f n).pend = .readOne → (f n).timeoutMs ≠ 0 → (f n).params.hasReadTimeout = true →
    (∀ m, n ≤ m → (f m).rx.first = (f m).rx.last) →
    ∃ m, n ≤ m ∧ (f (m + 1)).pend = .none ∧ (f (m + 1)).results = (f n).results ++ [⟨.timeout, .none⟩]

/-! ## ENC and CRC -/

/-- ENCODE returns START, LEN, the payload and its CRC, and changes nothing else (42_encoder.md R83). -/
def Obligations.EncodeReturnsTheFrame : Prop :=
  ∀ (s : State) (len : Byte) (payload : List Byte), payload.length = len.toNat →
    exec (.encode len payload) s = .next
      { s with results := s.results ++ [⟨.ok, .bytes (0xD5 :: len :: (payload ++ [crc8 payload]))⟩] }

/-- R84: every frame ENCODE returns is well-formed in the sense of 30_encoding.md R53; its byte 1 equals the payload
length, and its last byte the CRC of bytes 2 to L+1. -/
def Obligations.EncodedFramesAreWellFormed : Prop :=
  ∀ (s t : State) (len : Byte) (payload f : List Byte), payload.length = len.toNat →
    exec (.encode len payload) s = .next t → t.results = s.results ++ [⟨.ok, .bytes f⟩] →
    wellFormedFrame f = true ∧ f.length = payload.length + 3 ∧ (f[1]?).map BitVec.toNat = some payload.length
      ∧ f.getLast? = some (crc8 ((f.drop 2).take payload.length))

/-- A byte sequence is well-formed in the sense of R53 exactly when it is the frame of some payload of at most 255
bytes. -/
def Obligations.WellFormedFramesAreEncodings : Prop :=
  ∀ f : List Byte, wellFormedFrame f = true ↔ ∃ payload : List Byte, payload.length ≤ 255 ∧ f = frameOf payload

/-- `crc8_byte(a, b) = T[a ^ b]` with the 256-entry table of 43_crc.md R87 (which the spec derives from R85). -/
def Obligations.CrcByteIsTheTableLookup : Prop :=
  ∀ acc b : Byte, crcTable[(acc ^^^ b).toNat]? = some (crc8Byte acc b)

/-- Residue and linearity (43_crc.md R88 laws 1 to 3): a list followed by its CRC has CRC 0, and the CRC of a bytewise
XOR of lists of one length is the XOR of their CRCs. -/
def Obligations.CrcResidueAndLinearity : Prop :=
  crc8 [] = 0x00 ∧ (∀ l, crc8 (l ++ [crc8 l]) = 0x00)
    ∧ ∀ l e : List Byte, l.length = e.length → crc8 (List.zipWith (· ^^^ ·) l e) = crc8 l ^^^ crc8 e

/-- A one-bit error anywhere in a list changes its CRC (43_crc.md R88 law 4, which the spec derives). -/
def Obligations.CrcDetectsSingleBitErrors : Prop :=
  ∀ (l : List Byte) (j k : Nat), j < l.length → k < 8 → crc8 (flipBit l j k) ≠ crc8 l

/-- CRC_CLEAR, CRC_STEP and CRC_READ with their words (43_crc.md R89, R90, R91): what each returns and writes, in every
state, the line open or not; nothing else changes. A byte equal to the accumulator steps it to 0, and after reset it
reads 0. -/
def Obligations.CrcOperationsAct : Prop :=
  (decodeClient ⟨0x4000, []⟩ = .ok .crcClear
      ∧ (∀ b, decodeClient ⟨0x41#8 ++ b, []⟩ = .ok (.crcStep b)) ∧ decodeClient ⟨0x4200, []⟩ = .ok .crcRead)
    ∧ (∀ s : State,
      exec .crcClear s = .next { s with crcAcc := 0x00, results := s.results ++ [⟨.ok, .none⟩] }
        ∧ (∀ b, exec (.crcStep b) s = .next
            { s with
              crcAcc := crc8Byte s.crcAcc b
              results := s.results ++ [⟨.ok, .crc (crc8Byte s.crcAcc b)⟩] })
        ∧ exec .crcRead s = .next { s with results := s.results ++ [⟨.ok, .crc s.crcAcc⟩] })
    ∧ (∀ b, crc8Byte b b = 0x00) ∧ State.reset.crcAcc = 0x00

/-- A CRC_BLOCK (30_encoding.md R67) ends with the CRC of its bytes in the accumulator and in the last record (43_crc.md
R86, R89 to R91). -/
def Obligations.CrcBlockComputesTheCrc : Prop :=
  ∀ (bytes : List Byte) (s : State), s.live → s.pend = .none →
    ∃ t, runOps (crcBlockOps bytes) s = .next t ∧ t.crcAcc = crc8 bytes
      ∧ t.results.getLast? = some ⟨.ok, .crc (crc8 bytes)⟩ ∧ t.dec = s.dec ∧ t.res = s.res

/-! ## DEC -/

/-- DEC_RESET with its word (44_decoder.md R92): the fresh decoder, no result, cursor 0; nothing else changes. -/
def Obligations.DecResetMakesAFreshDecoder : Prop :=
  decodeClient ⟨0x5000, []⟩ = .ok .decReset
    ∧ ∀ s : State, exec .decReset s = .next
        { s with
          dec := ⟨.awaitStart, 0, 0, [], 0x00⟩
          res := ⟨.none, []⟩
          fldCursor := 0
          results := s.results ++ [⟨.ok, .none⟩] }

/-- DEC_FEED with its words, in each decoder state (44_decoder.md R93): the decoder's registers after the byte, the result registers and
the cursor on completion, and the `done` bit; nothing else changes. -/
def Obligations.DecFeedAdvancesTheDecoder : Prop :=
  (∀ b, decodeClient ⟨0x51#8 ++ b, []⟩ = .ok (.decFeed b))
  ∧ ∀ (s : State) (b : Byte),
    exec (.decFeed b) s = .next
      (match s.dec.state with
        | .awaitStart =>
          { s with
            dec := if b = 0xD5 then ⟨.awaitLength, s.dec.len, s.dec.rem, [], 0x00⟩ else s.dec
            results := s.results ++ [⟨.ok, .bit false⟩] }
        | .awaitLength =>
          { s with
            dec :=
              if b = 0 then ⟨.awaitCrc, 0, s.dec.rem, s.dec.work, s.dec.crc⟩
              else ⟨.inPayload, b, b, s.dec.work, s.dec.crc⟩
            results := s.results ++ [⟨.ok, .bit false⟩] }
        | .inPayload =>
          { s with
            dec :=
              ⟨if s.dec.rem = 1 then .awaitCrc else .inPayload, s.dec.len, s.dec.rem - 1, s.dec.work ++ [b],
                crc8Byte s.dec.crc b⟩
            results := s.results ++ [⟨.ok, .bit false⟩] }
        | .awaitCrc =>
          { s with
            dec := ⟨.awaitStart, 0, 0, [], 0x00⟩
            res := if b = s.dec.crc then ⟨.frameOk, s.dec.work⟩ else ⟨.crcMismatch, []⟩
            fldCursor := 0
            results := s.results ++ [⟨.ok, .bit true⟩] })

/-- The round trip (44_decoder.md R97): from AwaitStart, feeding the frame of a payload of at most 255 bytes gives `done`
on its last byte only, and latches the payload; nothing else changes. -/
def Obligations.EncodedPayloadsDecodeToThemselves : Prop :=
  ∀ (payload : List Byte) (s : State),
    payload.length ≤ 255 → s.live → s.pend = .none → s.dec.state = .awaitStart →
    runOps (feedAllOps (frameOf payload)) s = .next
      { s with
        dec := ⟨.awaitStart, 0, 0, [], 0x00⟩
        res := ⟨.frameOk, payload⟩
        fldCursor := 0
        results := s.results ++ doneRecords (List.replicate (payload.length + 2) false ++ [true]) }

/-- A one-bit error in a payload byte or in the CRC byte always ends the frame on its last byte with CRC_MISMATCH
(44_decoder.md R98 item 1). -/
def Obligations.SingleBitErrorsEndInMismatch : Prop :=
  ∀ (payload : List Byte) (j k : Nat) (s : State),
    payload.length ≤ 255 → 2 ≤ j → j < payload.length + 3 → k < 8 → s.live → s.pend = .none →
    s.dec.state = .awaitStart →
    runOps (feedAllOps (flipBit (frameOf payload) j k)) s = .next
      { s with
        dec := ⟨.awaitStart, 0, 0, [], 0x00⟩
        res := ⟨.crcMismatch, []⟩
        fldCursor := 0
        results := s.results ++ doneRecords (List.replicate (payload.length + 2) false ++ [true]) }

/-- Bytes other than 0xD5 are discarded in AwaitStart, one at a time and with `done` 0 (44_decoder.md R93, R98 item 2). -/
def Obligations.NoiseBeforeAFrameIsDiscarded : Prop :=
  ∀ (bytes : List Byte) (s : State),
    0xD5 ∉ bytes → s.live → s.pend = .none → s.dec.state = .awaitStart →
    runOps (feedAllOps bytes) s = .next
      { s with results := s.results ++ doneRecords (List.replicate bytes.length false) }

/-- DEC_RESULT returns the latched result and changes no state (44_decoder.md R95; D20, D21, D36): the status, the
length, the payload, the code of a good frame that has one, and its class. -/
def Obligations.DecResultReturnsTheLatchedResult : Prop :=
  ∀ s : State, exec .decResult s = .next
    { s with
      results := s.results
        ++ [⟨.ok, .decoded s.res.status s.res.payload.length s.res.payload
              (if s.res.status = .frameOk then s.res.payload.head? else none) (classify s.res)⟩] }

/-- The classification table of 44_decoder.md R96 (the numbers are the spec's choice): the number of the class. -/
def Obligations.ResponsesClassifyAsTabled : Prop :=
  ∀ payload : List Byte,
    (classify ⟨.none, payload⟩).number = 0 ∧ (classify ⟨.crcMismatch, payload⟩).number = 1
      ∧ (classify ⟨.frameOk, []⟩).number = 2
      ∧ ∀ code : Byte, (classify ⟨.frameOk, code :: payload⟩).number =
          if 0x80 ≤ code.toNat ∧ code.toNat ≤ 0x85 then code.toNat - 0x80 + 3 else 9

/-- RECV_FRAME (30_encoding.md R67) by its two exits. A response frame waiting in the receive buffer is received and
decoded: the reads return the frame's bytes in order, each is fed, `done` is 0 for all but the last byte and 1 for it, and
the payload is latched, the decoder fresh and the buffer drained and rewound; nothing else changes. Where the waiting bytes
(the cursors in the bounds of 10_state.md R24) are fed without a `done`, the next read holds, and the TIMER's step (41_rxbuf.md R79) ends it with TIMEOUT and no feed after
it: the state is that after the feeds, but for the drained buffer and the reads' records. On both exits the operations and
their records obey the host control of the loop: each operation is the one it issues after the record before, and after the
last one it is out. The loop appears as the reads and feeds it performed (log entry 17). -/
def Obligations.RecvFrameDecodesOrTimesOut : Prop :=
  (∀ (payload : List Byte) (s : State),
    payload.length ≤ 255 → s.live → s.linkOpen = true → s.pend = .none → s.dec.state = .awaitStart →
    s.pending = frameOf payload →
    let records :=
      recvRecords (frameOf payload) (List.replicate (payload.length + 2) false ++ [true]) .done
    runOps (recvFrameOps (frameOf payload) .done) s = .next
        { s with
          rx := { s.rx with first := 0, last := 0 }
          dec := ⟨.awaitStart, 0, 0, [], 0x00⟩
          res := ⟨.frameOk, payload⟩
          fldCursor := 0
          results := s.results ++ records }
      ∧ isRecvFrame none (List.zip (recvFrameOps (frameOf payload) .done) records) = true)
  ∧ ∀ (bytes : List Byte) (s u : State),
    s.live → s.linkOpen = true → s.pend = .none → s.timeoutMs ≠ 0 → s.params.hasReadTimeout = true →
    s.rx.first ≤ s.rx.last → s.pending = bytes → runOps (feedAllOps bytes) s = .next u →
    u.results = s.results ++ doneRecords (List.replicate bytes.length false) →
    let records := recvRecords bytes (List.replicate bytes.length false) .timeout
    (∃ held, runOps (recvFrameOps bytes .timeout) s = .next held ∧ held.pend = .readOne
        ∧ exec .evtTimer held = .next
          { u with
            rx := if bytes = [] then s.rx else { s.rx with first := 0, last := 0 }
            results := s.results ++ records })
      ∧ isRecvFrame none (List.zip (recvFrameOps bytes .timeout) records) = true

/-! ## FLD -/

/-- Every PUT returns the little-endian pattern of its operand, byte `k` being bits 8k+7 to 8k of the integer's
two's-complement form, and changes no state (45_fields.md R99, R102 to R107; 20_memory.md R41). -/
def Obligations.PutReturnsLittleEndianBytes : Prop :=
  ∀ (T : FieldType) (v : Int) (s : State), T.holds v →
    exec (T.putOp v) s = .next
      { s with
        results := s.results
          ++ [⟨.ok, .bytes ((List.range T.width).map fun k => BitVec.ofInt 8 (v / 256 ^ k))⟩] }

/-- Every GET reads its field of the response data at the cursor, little-endian and signed or unsigned as the type says,
and advances the cursor by the width; nothing else changes (45_fields.md R100, R108 to R113). -/
def Obligations.GetReadsTheFieldAtTheCursor : Prop :=
  ∀ (T : FieldType) (s : State),
    s.res.status = .frameOk → s.fldCursor.toNat + T.width ≤ s.res.payload.length - 1 →
    (let p : Nat :=
        ((List.range T.width).map fun k => (s.res.payload.getD (1 + s.fldCursor.toNat + k) 0).toNat * 256 ^ k).sum
     exec T.getOp s = .next
      { s with
        fldCursor := s.fldCursor + BitVec.ofNat 8 T.width
        results := s.results
          ++ [⟨.ok, .int (if T.signed = true ∧ 2 ^ (8 * T.width - 1) ≤ p then (p : Int) - 2 ^ (8 * T.width)
                          else p)⟩] })
      ∧ (s.res.payload.length ≤ 255 →
        (s.fldCursor + BitVec.ofNat 8 T.width).toNat = s.fldCursor.toNat + T.width)

/-- A GET without a good frame records F_NO_FRAME, and one past the end of the data F_FIELD_UNDERRUN; the first is
checked first, and neither changes anything else (R100, 60_exceptions.md R121; decisions D22 and D41). -/
def Obligations.GetFaultsWithoutData : Prop :=
  ∀ (T : FieldType) (s : State), s.fault = [] →
    (s.res.status ≠ .frameOk → exec T.getOp s = .next { s with fault := [.noFrame] })
      ∧ (s.res.status = .frameOk → s.res.payload.length - 1 < s.fldCursor.toNat + T.width →
        exec T.getOp s = .next { s with fault := [.fieldUnderrun] })

/-- Fields read back (45_fields.md R101): for every type and every value in its range, if a good frame's data at the
cursor holds the bytes PUT gives, GET returns the value. -/
def Obligations.FieldsReadBack : Prop :=
  ∀ (T : FieldType) (v : Int) (s : State) (rest : List Byte),
    T.holds v → s.res.status = .frameOk →
    (s.res.payload.drop 1).drop s.fldCursor.toNat = put T.width v ++ rest →
    exec T.getOp s = .next
      { s with
        fldCursor := s.fldCursor + BitVec.ofNat 8 T.width
        results := s.results ++ [⟨.ok, .int v⟩] }

/-! ## The line and the payloads -/

/-- A character has one start bit, the data bits least significant first, the parity its configuration asks for and its
stop half-bits (20_memory.md R43; general knowledge of the spec's, D24, log entry 15): its length is R149's, it begins
low, both half-bits of data bit `k` carry that bit, it ends with `cfg.stop` high half-bits, and with parity E or O the two
half-bits after the data carry one level that makes the number of ones, data and parity together, even or odd. -/
def Obligations.CharactersHaveTheirParity : Prop :=
  ∀ (cfg : LineConfig) (b : Byte),
    (characterLevels cfg b).length = characterHalfBits cfg
      ∧ (characterLevels cfg b).take 2 = [false, false]
      ∧ (∀ k, k < 8 → (characterLevels cfg b)[2 + 2 * k]? = some (b.getLsbD k)
        ∧ (characterLevels cfg b)[3 + 2 * k]? = some (b.getLsbD k))
      ∧ (characterLevels cfg b).drop (characterHalfBits cfg - cfg.stop.toNat) = List.replicate cfg.stop.toNat true
      ∧ (cfg.parity = 1 → ∃ p, (characterLevels cfg b)[18]? = some p ∧ (characterLevels cfg b)[19]? = some p
        ∧ (((List.range 8).map b.getLsbD) ++ [p]).count true % 2 = 0)
      ∧ (cfg.parity = 2 → ∃ p, (characterLevels cfg b)[18]? = some p ∧ (characterLevels cfg b)[19]? = some p
        ∧ (((List.range 8).map b.getLsbD) ++ [p]).count true % 2 = 1)

/-- The line idles high (20_memory.md R43; general knowledge of the spec's, D24, log entry 15): with no traffic at all,
in the gap before every character and once the traffic is over. After its gap a character's half-bits are on the line. -/
def Obligations.LineIdlesHigh : Prop :=
  ∀ (cfg : LineConfig) (earlier : List Sending) (x : Sending) (later : List Sending) (t : Nat),
    lineLevelAt cfg [] t = true
      ∧ (t < x.gap → lineLevelAt cfg (earlier ++ x :: later) ((lineLevels cfg earlier).length + t) = true)
      ∧ (t < characterHalfBits cfg →
        (characterLevels cfg x.byte)[t]?
          = some (lineLevelAt cfg (earlier ++ x :: later) ((lineLevels cfg earlier).length + x.gap + t)))
      ∧ ((lineLevels cfg earlier).length ≤ t → lineLevelAt cfg earlier t = true)

/-- QUEUE_POINT_ABS carries its four i32 fields at payload offsets 1, 5, 9 and 13, without padding (20_memory.md R44,
30_encoding.md R60). -/
def Obligations.QueuePointFieldsAreUnpadded : Prop :=
  ∀ sx sy sz dda : Int,
    let p := queuePointAbsRequest sx sy sz dda
    p.length = 17 ∧ p.head? = some 129 ∧ (p.drop 1).take 4 = put 4 sx ∧ (p.drop 5).take 4 = put 4 sy
      ∧ (p.drop 9).take 4 = put 4 sz ∧ (p.drop 13).take 4 = put 4 dda
end

