-- ==== Sys2Proof/Laws/Encoding.lean ====
section
/-! SUPPORT. The fields of a word, operand ranges and little-endian bytes. -/

namespace Sys2Proof

theorem toNat_opWord (op sub : BitVec 4) (imm : Byte) :
    (opWord op sub imm).toNat = op.toNat * 4096 + sub.toNat * 256 + imm.toNat := by
  have := op.isLt; have := sub.isLt; have := imm.isLt
  unfold opWord
  rw [BitVec.toNat_append, BitVec.toNat_append, ← Nat.shiftLeft_add_eq_or_of_lt (by omega),
    ← Nat.shiftLeft_add_eq_or_of_lt (by omega)]
  simp only [Nat.shiftLeft_eq]; omega

theorem toNat_opField (w : OpWord) : (opField w).toNat = w.toNat / 4096 := by
  have := w.isLt
  simp only [opField, BitVec.extractLsb'_toNat, Nat.shiftRight_eq_div_pow]; omega

theorem toNat_subField (w : OpWord) : (subField w).toNat = w.toNat / 256 % 16 := by
  simp only [subField, BitVec.extractLsb'_toNat, Nat.shiftRight_eq_div_pow]

theorem toNat_immField (w : OpWord) : (immField w).toNat = w.toNat % 256 := by
  simp only [immField, BitVec.extractLsb'_toNat, Nat.shiftRight_eq_div_pow]; omega

@[simp] theorem opField_opWord (op sub : BitVec 4) (imm : Byte) : opField (opWord op sub imm) = op := by
  have := op.isLt; have := sub.isLt; have := imm.isLt
  apply BitVec.eq_of_toNat_eq
  rw [toNat_opField, toNat_opWord]; omega

@[simp] theorem subField_opWord (op sub : BitVec 4) (imm : Byte) : subField (opWord op sub imm) = sub := by
  have := op.isLt; have := sub.isLt; have := imm.isLt
  apply BitVec.eq_of_toNat_eq
  rw [toNat_subField, toNat_opWord]; omega

@[simp] theorem immField_opWord (op sub : BitVec 4) (imm : Byte) : immField (opWord op sub imm) = imm := by
  have := op.isLt; have := sub.isLt; have := imm.isLt
  apply BitVec.eq_of_toNat_eq
  rw [toNat_immField, toNat_opWord]; omega

/-- A word is made of its three fields. -/
theorem opWord_fields (w : OpWord) : opWord (opField w) (subField w) (immField w) = w := by
  have := w.isLt
  apply BitVec.eq_of_toNat_eq
  rw [toNat_opWord, toNat_opField, toNat_subField, toNat_immField]; omega

/-! ## Operands -/

theorem natOperand_toNat (n : Nat) (b : BitVec n) : natOperand n (b.toNat : Int) = some b := by
  unfold natOperand
  rw [if_pos ⟨by omega, by rw [Int.toNat_natCast]; exact b.isLt⟩]
  simp

/-- What a range check lets through: the operand is the number the integer names. -/
theorem natOperand_eq_some (n : Nat) (v : Int) (b : BitVec n) (h : natOperand n v = some b) :
    v = (b.toNat : Int) := by
  unfold natOperand at h
  split at h
  · rename_i hv
    simp only [Option.some.injEq] at h
    subst h
    rw [BitVec.toNat_ofNat, Nat.mod_eq_of_lt hv.2]
    omega
  · cases h

theorem byteOperands_ofBytes (bs : List Byte) : byteOperands (ofBytes bs) = some bs := by
  induction bs with
  | nil => rfl
  | cons b bs ih =>
    have h : byteOperands (List.map (fun b : Byte => (b.toNat : Int)) bs) = some bs := ih
    simp [ofBytes, byteOperands, natOperand_toNat, h]

theorem byteOperands_eq_some (vs : List Int) (bs : List Byte) (h : byteOperands vs = some bs) : vs = ofBytes bs := by
  induction vs generalizing bs with
  | nil => simp only [byteOperands, Option.some.injEq] at h; subst h; rfl
  | cons v vs ih =>
    simp only [byteOperands] at h
    split at h
    · rename_i b bs' hb hbs
      simp only [Option.some.injEq] at h
      subst h
      have := natOperand_eq_some 8 v b hb
      have := ih bs' hbs
      simp_all [ofBytes]
    · cases h

/-- An event word names a step of the READER or the TIMER, never an operation of the client. -/
theorem decodeEvent_isEvent (w : OpWord) (i : Instr) (h : decodeEvent w = .ok i) : i.isEvent = true := by
  unfold decodeEvent at h
  split at h
  · rename_i hw
    have hn : (opField w).toNat = 15 := by rw [hw]; rfl
    simp only [decode, hn, decodeEventRow] at h
    split at h
    · cases h; rfl
    · unfold withZeroImm at h
      split at h <;> cases h
      rfl
    · cases h
  · cases h

/-! ## Little-endian bytes -/

@[simp] theorem length_leBytes (n v : Nat) : (leBytes n v).length = n := by
  induction n generalizing v with
  | zero => rfl
  | succ n ih => simp [leBytes, ih]

theorem leNat_leBytes (n v : Nat) : leNat (leBytes n v) = v % 256 ^ n := by
  induction n generalizing v with
  | zero => simp [leBytes, leNat, Nat.mod_one]
  | succ n ih =>
    simp only [leBytes, leNat, ih, BitVec.toNat_ofNat]
    have h : v % (256 * 256 ^ n) = v % 256 + 256 * (v / 256 % 256 ^ n) := Nat.mod_mul
    rw [show 256 ^ (n + 1) = 256 * 256 ^ n from Nat.pow_succ', h]

theorem leNat_lt (bs : List Byte) : leNat bs < 256 ^ bs.length := by
  induction bs with
  | nil => simp [leNat]
  | cons b bs ih =>
    have := b.isLt
    simp only [leNat, List.length_cons, Nat.pow_succ]
    omega

/-- The two's-complement reading undoes the pattern of a value in the signed range. -/
theorem signedReading_unsignedPart (v : Int) (n : Nat) (hn : 0 < n) (h : -(2 ^ (n - 1) : Int) ≤ v)
    (h' : v < 2 ^ (n - 1)) : signedReading (unsignedPart v n) n = v := by
  obtain ⟨m, rfl⟩ : ∃ m, n = m + 1 := ⟨n - 1, by omega⟩
  simp only [Nat.add_sub_cancel] at h h'
  have hp : ((2 ^ (m + 1) : Nat) : Int) = 2 * 2 ^ m := by push_cast; ring
  have hpos : (0 : Int) < 2 ^ m := by positivity
  have hcast : ((unsignedPart v (m + 1) : Nat) : Int) = v % (2 * 2 ^ m) := by
    unfold unsignedPart
    rw [hp, Int.toNat_of_nonneg (Int.emod_nonneg _ (by omega))]
  have hlt : unsignedPart v (m + 1) < 2 ^ (m + 1) := by
    have := Int.emod_lt_of_pos v (b := 2 * 2 ^ m) (by omega)
    have h2 : ((2 ^ (m + 1) : Nat) : Int) = 2 * 2 ^ m := hp
    omega
  unfold signedReading
  rw [Nat.add_sub_cancel, hp]
  by_cases hv : 0 ≤ v
  · have e : v % (2 * 2 ^ m) = v := Int.emod_eq_of_lt hv (by omega)
    rw [e] at hcast
    have hb : unsignedPart v (m + 1) < 2 ^ m := by
      have : ((2 ^ m : Nat) : Int) = 2 ^ m := by push_cast; ring
      omega
    rw [Nat.testBit_lt_two_pow hb]
    simpa using hcast
  · have e : v % (2 * 2 ^ m) = v + 2 * 2 ^ m := by
      rw [← Int.add_emod_right]
      exact Int.emod_eq_of_lt (by omega) (by omega)
    rw [e] at hcast
    have hb : 2 ^ m ≤ unsignedPart v (m + 1) := by
      have : ((2 ^ m : Nat) : Int) = 2 ^ m := by push_cast; ring
      omega
    have ht : (unsignedPart v (m + 1)).testBit m = true := by
      rw [Nat.testBit_eq_decide_div_mod_eq, Nat.div_eq_of_lt_le (k := 1)] <;> first | decide | (rw [pow_succ] at hlt; omega)
    rw [ht]
    simp only [if_true]
    omega

end Sys2Proof
end

