-- ==== Sys2Proof/Laws/Memory.lean ====
section
/-! SUPPORT. The receive buffer's storage: reading after writing, and the canonical form kept by every operation. -/

namespace Sys2Proof.Machine

theorem listed_write (m : Memory) (a : Nat) (v : Byte) (b : Nat) :
    (m.write a v).listed b = if b = a then some v else m.listed b := by
  induction m with
  | nil =>
    by_cases h : b = a
    · simp [Memory.write, Memory.listed, h]
    · simp [Memory.write, Memory.listed, h, Ne.symm h]
  | cons c m ih =>
    obtain ⟨k, w⟩ := c
    unfold Memory.write
    by_cases h1 : a < k
    · by_cases h : b = a
      · simp [h1, Memory.listed, h]
      · simp [h1, Memory.listed, h, Ne.symm h]
    · by_cases h2 : a = k
      · subst h2
        by_cases h : b = a
        · simp [Memory.listed, h]
        · simp [Memory.listed, h, Ne.symm h]
      · by_cases h : b = a
        · subst h
          simp [h1, h2, Memory.listed, Ne.symm h2, ih]
        · simp [h1, h2, Memory.listed, ih, h]

theorem read_write (m : Memory) (a : Nat) (v : Byte) (b : Nat) :
    (m.write a v).read b = if b = a then v else m.read b := by
  unfold Memory.read
  rw [listed_write]
  by_cases h : b = a <;> simp [h]

theorem risesAbove_weaken (m : Memory) (l : Nat) (h : Memory.risesAbove (some l) m = true) :
    Memory.risesAbove none m = true := by
  cases m with
  | nil => rfl
  | cons c m => obtain ⟨k, w⟩ := c; simp_all [Memory.risesAbove]

theorem risesAbove_cons (low : Option Nat) (k : Nat) (w : Byte) (m : Memory) :
    Memory.risesAbove low ((k, w) :: m) = true ↔ (∀ l, low = some l → l < k) ∧ Memory.risesAbove (some k) m = true := by
  cases low <;> simp [Memory.risesAbove]

theorem risesAbove_write (m : Memory) (low : Option Nat) (a : Nat) (v : Byte)
    (h : Memory.risesAbove low m = true) (ha : ∀ l, low = some l → l < a) :
    Memory.risesAbove low (m.write a v) = true := by
  induction m generalizing low with
  | nil => exact (risesAbove_cons low a v []).mpr ⟨ha, rfl⟩
  | cons c m ih =>
    obtain ⟨k, w⟩ := c
    obtain ⟨hk, hm⟩ := (risesAbove_cons low k w m).mp h
    unfold Memory.write
    by_cases h1 : a < k
    · rw [if_pos h1, risesAbove_cons, risesAbove_cons]
      exact ⟨ha, fun l hl => by cases hl; exact h1, hm⟩
    · rw [if_neg h1]
      by_cases h2 : a = k
      · subst h2
        rw [if_pos rfl, risesAbove_cons]
        exact ⟨ha, hm⟩
      · rw [if_neg h2, risesAbove_cons]
        exact ⟨hk, ih (some k) hm fun l hl => by cases hl; omega⟩

/-- Writing keeps the canonical form. -/
theorem wf_write (m : Memory) (a : Nat) (v : Byte) (h : m.wf = true) : (m.write a v).wf = true :=
  risesAbove_write m none a v h (by intro l hl; cases hl)

/-- The storage at reset, and after a LINK_OPEN, is in canonical form. -/
theorem wf_nil : Memory.wf [] = true := rfl

theorem length_slice (m : Memory) (first n : Nat) : (m.slice first n).length = n := by
  induction n generalizing first with
  | zero => rfl
  | succ n ih => simp [Memory.slice, ih]

/-- A write at or past the end of a slice is not seen in it. -/
theorem slice_write (m : Memory) (a : Nat) (v : Byte) (first n : Nat) (h : first + n ≤ a) :
    (m.write a v).slice first n = m.slice first n := by
  induction n generalizing first with
  | zero => rfl
  | succ n ih =>
    simp only [Memory.slice]
    rw [read_write, ih (first + 1) (by omega), if_neg (by omega)]

/-- A slice grows by the byte written at its end. -/
theorem slice_write_end (m : Memory) (v : Byte) (first n : Nat) :
    (m.write (first + n) v).slice first (n + 1) = m.slice first n ++ [v] := by
  induction n generalizing first with
  | zero => simp [Memory.slice, read_write]
  | succ n ih =>
    have h := ih (first + 1)
    rw [show first + 1 + n = first + (n + 1) by omega] at h
    conv_lhs => rw [Memory.slice]
    rw [h, read_write, if_neg (by omega)]
    rfl

end Sys2Proof.Machine
end

