-- ==== Sys2Proof/Laws/State.lean ====
section
/-! SUPPORT. What each field of the state is after each named update. -/

namespace Sys2Proof.Machine

@[simp] theorem answer_params (st : Status) (v : Value) (s : State) : (answer st v s).params = s.params := rfl
@[simp] theorem answer_linkOpen (st : Status) (v : Value) (s : State) : (answer st v s).linkOpen = s.linkOpen := rfl
@[simp] theorem answer_cfg (st : Status) (v : Value) (s : State) : (answer st v s).cfg = s.cfg := rfl
@[simp] theorem answer_timeoutMs (st : Status) (v : Value) (s : State) : (answer st v s).timeoutMs = s.timeoutMs :=
  rfl
@[simp] theorem answer_dtr (st : Status) (v : Value) (s : State) : (answer st v s).dtr = s.dtr := rfl
@[simp] theorem answer_rx (st : Status) (v : Value) (s : State) : (answer st v s).rx = s.rx := rfl
@[simp] theorem answer_crcAcc (st : Status) (v : Value) (s : State) : (answer st v s).crcAcc = s.crcAcc := rfl
@[simp] theorem answer_dec (st : Status) (v : Value) (s : State) : (answer st v s).dec = s.dec := rfl
@[simp] theorem answer_res (st : Status) (v : Value) (s : State) : (answer st v s).res = s.res := rfl
@[simp] theorem answer_fldCursor (st : Status) (v : Value) (s : State) : (answer st v s).fldCursor = s.fldCursor :=
  rfl
@[simp] theorem answer_fault (st : Status) (v : Value) (s : State) : (answer st v s).fault = s.fault := rfl
@[simp] theorem answer_refused (st : Status) (v : Value) (s : State) : (answer st v s).refused = s.refused := rfl
@[simp] theorem answer_txHist (st : Status) (v : Value) (s : State) : (answer st v s).txHist = s.txHist := rfl
@[simp] theorem answer_dtrHist (st : Status) (v : Value) (s : State) : (answer st v s).dtrHist = s.dtrHist := rfl
@[simp] theorem answer_pend (st : Status) (v : Value) (s : State) : (answer st v s).pend = s.pend := rfl
@[simp] theorem answer_results (st : Status) (v : Value) (s : State) : (answer st v s).results = s.results ++ [⟨st, v⟩] :=
  rfl
@[simp] theorem answer_outside (st : Status) (v : Value) (s : State) : (answer st v s).outside = s.outside := rfl

@[simp] theorem recordFault_params (k : Fault) (s : State) : (recordFault k s).params = s.params := rfl
@[simp] theorem recordFault_linkOpen (k : Fault) (s : State) : (recordFault k s).linkOpen = s.linkOpen := rfl
@[simp] theorem recordFault_cfg (k : Fault) (s : State) : (recordFault k s).cfg = s.cfg := rfl
@[simp] theorem recordFault_timeoutMs (k : Fault) (s : State) : (recordFault k s).timeoutMs = s.timeoutMs := rfl
@[simp] theorem recordFault_dtr (k : Fault) (s : State) : (recordFault k s).dtr = s.dtr := rfl
@[simp] theorem recordFault_rx (k : Fault) (s : State) : (recordFault k s).rx = s.rx := rfl
@[simp] theorem recordFault_crcAcc (k : Fault) (s : State) : (recordFault k s).crcAcc = s.crcAcc := rfl
@[simp] theorem recordFault_dec (k : Fault) (s : State) : (recordFault k s).dec = s.dec := rfl
@[simp] theorem recordFault_res (k : Fault) (s : State) : (recordFault k s).res = s.res := rfl
@[simp] theorem recordFault_fldCursor (k : Fault) (s : State) : (recordFault k s).fldCursor = s.fldCursor := rfl
@[simp] theorem recordFault_fault (k : Fault) (s : State) : (recordFault k s).fault = addFault k s.fault := rfl
@[simp] theorem recordFault_refused (k : Fault) (s : State) : (recordFault k s).refused = s.refused := rfl
@[simp] theorem recordFault_txHist (k : Fault) (s : State) : (recordFault k s).txHist = s.txHist := rfl
@[simp] theorem recordFault_dtrHist (k : Fault) (s : State) : (recordFault k s).dtrHist = s.dtrHist := rfl
@[simp] theorem recordFault_pend (k : Fault) (s : State) : (recordFault k s).pend = s.pend := rfl
@[simp] theorem recordFault_results (k : Fault) (s : State) : (recordFault k s).results = s.results := rfl
@[simp] theorem recordFault_outside (k : Fault) (s : State) : (recordFault k s).outside = s.outside := rfl

@[simp] theorem driveDtr_params (l : Bool) (s : State) : (driveDtr l s).params = s.params := rfl
@[simp] theorem driveDtr_linkOpen (l : Bool) (s : State) : (driveDtr l s).linkOpen = s.linkOpen := rfl
@[simp] theorem driveDtr_cfg (l : Bool) (s : State) : (driveDtr l s).cfg = s.cfg := rfl
@[simp] theorem driveDtr_timeoutMs (l : Bool) (s : State) : (driveDtr l s).timeoutMs = s.timeoutMs := rfl
@[simp] theorem driveDtr_dtr (l : Bool) (s : State) : (driveDtr l s).dtr = l := rfl
@[simp] theorem driveDtr_rx (l : Bool) (s : State) : (driveDtr l s).rx = s.rx := rfl
@[simp] theorem driveDtr_crcAcc (l : Bool) (s : State) : (driveDtr l s).crcAcc = s.crcAcc := rfl
@[simp] theorem driveDtr_dec (l : Bool) (s : State) : (driveDtr l s).dec = s.dec := rfl
@[simp] theorem driveDtr_res (l : Bool) (s : State) : (driveDtr l s).res = s.res := rfl
@[simp] theorem driveDtr_fldCursor (l : Bool) (s : State) : (driveDtr l s).fldCursor = s.fldCursor := rfl
@[simp] theorem driveDtr_fault (l : Bool) (s : State) : (driveDtr l s).fault = s.fault := rfl
@[simp] theorem driveDtr_refused (l : Bool) (s : State) : (driveDtr l s).refused = s.refused := rfl
@[simp] theorem driveDtr_txHist (l : Bool) (s : State) : (driveDtr l s).txHist = s.txHist := rfl
@[simp] theorem driveDtr_dtrHist (l : Bool) (s : State) : (driveDtr l s).dtrHist = s.dtrHist ++ [l] := rfl
@[simp] theorem driveDtr_pend (l : Bool) (s : State) : (driveDtr l s).pend = s.pend := rfl
@[simp] theorem driveDtr_results (l : Bool) (s : State) : (driveDtr l s).results = s.results := rfl
@[simp] theorem driveDtr_outside (l : Bool) (s : State) : (driveDtr l s).outside = s.outside := rfl

@[simp] theorem drawDtr_params (s : State) : (drawDtr s).params = s.params := rfl
@[simp] theorem drawDtr_linkOpen (s : State) : (drawDtr s).linkOpen = s.linkOpen := rfl
@[simp] theorem drawDtr_cfg (s : State) : (drawDtr s).cfg = s.cfg := rfl
@[simp] theorem drawDtr_timeoutMs (s : State) : (drawDtr s).timeoutMs = s.timeoutMs := rfl
@[simp] theorem drawDtr_dtr (s : State) : (drawDtr s).dtr = Config.dtrAfterClose s.outside.draws := rfl
@[simp] theorem drawDtr_rx (s : State) : (drawDtr s).rx = s.rx := rfl
@[simp] theorem drawDtr_crcAcc (s : State) : (drawDtr s).crcAcc = s.crcAcc := rfl
@[simp] theorem drawDtr_dec (s : State) : (drawDtr s).dec = s.dec := rfl
@[simp] theorem drawDtr_res (s : State) : (drawDtr s).res = s.res := rfl
@[simp] theorem drawDtr_fldCursor (s : State) : (drawDtr s).fldCursor = s.fldCursor := rfl
@[simp] theorem drawDtr_fault (s : State) : (drawDtr s).fault = s.fault := rfl
@[simp] theorem drawDtr_refused (s : State) : (drawDtr s).refused = s.refused := rfl
@[simp] theorem drawDtr_txHist (s : State) : (drawDtr s).txHist = s.txHist := rfl
@[simp] theorem drawDtr_dtrHist (s : State) : (drawDtr s).dtrHist = s.dtrHist := rfl
@[simp] theorem drawDtr_pend (s : State) : (drawDtr s).pend = s.pend := rfl
@[simp] theorem drawDtr_results (s : State) : (drawDtr s).results = s.results := rfl
@[simp] theorem drawDtr_outside (s : State) : (drawDtr s).outside = { s.outside with draws := s.outside.draws + 1 } :=
  rfl

@[simp] theorem openSuccess_params (b : Word32) (p t : Byte) (s : State) : (openSuccess b p t s).params = s.params :=
  rfl
@[simp] theorem openSuccess_linkOpen (b : Word32) (p t : Byte) (s : State) : (openSuccess b p t s).linkOpen = true :=
  rfl
@[simp] theorem openSuccess_cfg (b : Word32) (p t : Byte) (s : State) : (openSuccess b p t s).cfg = ⟨b, p.setWidth 2, 8, t.setWidth 3⟩ :=
  rfl
@[simp] theorem openSuccess_timeoutMs (b : Word32) (p t : Byte) (s : State) : (openSuccess b p t s).timeoutMs = 0 :=
  rfl
@[simp] theorem openSuccess_dtr (b : Word32) (p t : Byte) (s : State) : (openSuccess b p t s).dtr = s.dtr := rfl
@[simp] theorem openSuccess_rx (b : Word32) (p t : Byte) (s : State) : (openSuccess b p t s).rx = ⟨[], s.params.initCap, 0, 0, []⟩ :=
  rfl
@[simp] theorem openSuccess_crcAcc (b : Word32) (p t : Byte) (s : State) : (openSuccess b p t s).crcAcc = s.crcAcc :=
  rfl
@[simp] theorem openSuccess_dec (b : Word32) (p t : Byte) (s : State) : (openSuccess b p t s).dec = s.dec := rfl
@[simp] theorem openSuccess_res (b : Word32) (p t : Byte) (s : State) : (openSuccess b p t s).res = s.res := rfl
@[simp] theorem openSuccess_fldCursor (b : Word32) (p t : Byte) (s : State) : (openSuccess b p t s).fldCursor = s.fldCursor :=
  rfl
@[simp] theorem openSuccess_fault (b : Word32) (p t : Byte) (s : State) : (openSuccess b p t s).fault = s.fault :=
  rfl
@[simp] theorem openSuccess_refused (b : Word32) (p t : Byte) (s : State) : (openSuccess b p t s).refused = s.refused :=
  rfl
@[simp] theorem openSuccess_txHist (b : Word32) (p t : Byte) (s : State) : (openSuccess b p t s).txHist = s.txHist :=
  rfl
@[simp] theorem openSuccess_dtrHist (b : Word32) (p t : Byte) (s : State) : (openSuccess b p t s).dtrHist = s.dtrHist :=
  rfl
@[simp] theorem openSuccess_pend (b : Word32) (p t : Byte) (s : State) : (openSuccess b p t s).pend = s.pend := rfl
@[simp] theorem openSuccess_results (b : Word32) (p t : Byte) (s : State) : (openSuccess b p t s).results = s.results :=
  rfl
@[simp] theorem openSuccess_outside (b : Word32) (p t : Byte) (s : State) : (openSuccess b p t s).outside = s.outside :=
  rfl

@[simp] theorem resetDecoder_params (s : State) : (resetDecoder s).params = s.params := rfl
@[simp] theorem resetDecoder_linkOpen (s : State) : (resetDecoder s).linkOpen = s.linkOpen := rfl
@[simp] theorem resetDecoder_cfg (s : State) : (resetDecoder s).cfg = s.cfg := rfl
@[simp] theorem resetDecoder_timeoutMs (s : State) : (resetDecoder s).timeoutMs = s.timeoutMs := rfl
@[simp] theorem resetDecoder_dtr (s : State) : (resetDecoder s).dtr = s.dtr := rfl
@[simp] theorem resetDecoder_rx (s : State) : (resetDecoder s).rx = s.rx := rfl
@[simp] theorem resetDecoder_crcAcc (s : State) : (resetDecoder s).crcAcc = s.crcAcc := rfl
@[simp] theorem resetDecoder_dec (s : State) : (resetDecoder s).dec = .fresh := rfl
@[simp] theorem resetDecoder_res (s : State) : (resetDecoder s).res = .fresh := rfl
@[simp] theorem resetDecoder_fldCursor (s : State) : (resetDecoder s).fldCursor = 0 := rfl
@[simp] theorem resetDecoder_fault (s : State) : (resetDecoder s).fault = s.fault := rfl
@[simp] theorem resetDecoder_refused (s : State) : (resetDecoder s).refused = s.refused := rfl
@[simp] theorem resetDecoder_txHist (s : State) : (resetDecoder s).txHist = s.txHist := rfl
@[simp] theorem resetDecoder_dtrHist (s : State) : (resetDecoder s).dtrHist = s.dtrHist := rfl
@[simp] theorem resetDecoder_pend (s : State) : (resetDecoder s).pend = s.pend := rfl
@[simp] theorem resetDecoder_results (s : State) : (resetDecoder s).results = s.results := rfl
@[simp] theorem resetDecoder_outside (s : State) : (resetDecoder s).outside = s.outside := rfl

@[simp] theorem drawOpen_params (s : State) : (drawOpen s).2.params = s.params := by unfold drawOpen; split <;> rfl
@[simp] theorem drawOpen_linkOpen (s : State) : (drawOpen s).2.linkOpen = s.linkOpen := by unfold drawOpen; split <;> rfl
@[simp] theorem drawOpen_cfg (s : State) : (drawOpen s).2.cfg = s.cfg := by unfold drawOpen; split <;> rfl
@[simp] theorem drawOpen_timeoutMs (s : State) : (drawOpen s).2.timeoutMs = s.timeoutMs := by unfold drawOpen; split <;> rfl
@[simp] theorem drawOpen_dtr (s : State) : (drawOpen s).2.dtr = s.dtr := by unfold drawOpen; split <;> rfl
@[simp] theorem drawOpen_rx (s : State) : (drawOpen s).2.rx = s.rx := by unfold drawOpen; split <;> rfl
@[simp] theorem drawOpen_crcAcc (s : State) : (drawOpen s).2.crcAcc = s.crcAcc := by unfold drawOpen; split <;> rfl
@[simp] theorem drawOpen_dec (s : State) : (drawOpen s).2.dec = s.dec := by unfold drawOpen; split <;> rfl
@[simp] theorem drawOpen_res (s : State) : (drawOpen s).2.res = s.res := by unfold drawOpen; split <;> rfl
@[simp] theorem drawOpen_fldCursor (s : State) : (drawOpen s).2.fldCursor = s.fldCursor := by unfold drawOpen; split <;> rfl
@[simp] theorem drawOpen_fault (s : State) : (drawOpen s).2.fault = s.fault := by unfold drawOpen; split <;> rfl
@[simp] theorem drawOpen_refused (s : State) : (drawOpen s).2.refused = s.refused := by unfold drawOpen; split <;> rfl
@[simp] theorem drawOpen_txHist (s : State) : (drawOpen s).2.txHist = s.txHist := by unfold drawOpen; split <;> rfl
@[simp] theorem drawOpen_dtrHist (s : State) : (drawOpen s).2.dtrHist = s.dtrHist := by unfold drawOpen; split <;> rfl
@[simp] theorem drawOpen_pend (s : State) : (drawOpen s).2.pend = s.pend := by unfold drawOpen; split <;> rfl
@[simp] theorem drawOpen_results (s : State) : (drawOpen s).2.results = s.results := by unfold drawOpen; split <;> rfl

@[simp] theorem drawWrite_params (s : State) : (drawWrite s).2.params = s.params := by unfold drawWrite; split <;> rfl
@[simp] theorem drawWrite_linkOpen (s : State) : (drawWrite s).2.linkOpen = s.linkOpen := by unfold drawWrite; split <;> rfl
@[simp] theorem drawWrite_cfg (s : State) : (drawWrite s).2.cfg = s.cfg := by unfold drawWrite; split <;> rfl
@[simp] theorem drawWrite_timeoutMs (s : State) : (drawWrite s).2.timeoutMs = s.timeoutMs := by unfold drawWrite; split <;> rfl
@[simp] theorem drawWrite_dtr (s : State) : (drawWrite s).2.dtr = s.dtr := by unfold drawWrite; split <;> rfl
@[simp] theorem drawWrite_rx (s : State) : (drawWrite s).2.rx = s.rx := by unfold drawWrite; split <;> rfl
@[simp] theorem drawWrite_crcAcc (s : State) : (drawWrite s).2.crcAcc = s.crcAcc := by unfold drawWrite; split <;> rfl
@[simp] theorem drawWrite_dec (s : State) : (drawWrite s).2.dec = s.dec := by unfold drawWrite; split <;> rfl
@[simp] theorem drawWrite_res (s : State) : (drawWrite s).2.res = s.res := by unfold drawWrite; split <;> rfl
@[simp] theorem drawWrite_fldCursor (s : State) : (drawWrite s).2.fldCursor = s.fldCursor := by unfold drawWrite; split <;> rfl
@[simp] theorem drawWrite_fault (s : State) : (drawWrite s).2.fault = s.fault := by unfold drawWrite; split <;> rfl
@[simp] theorem drawWrite_refused (s : State) : (drawWrite s).2.refused = s.refused := by unfold drawWrite; split <;> rfl
@[simp] theorem drawWrite_txHist (s : State) : (drawWrite s).2.txHist = s.txHist := by unfold drawWrite; split <;> rfl
@[simp] theorem drawWrite_dtrHist (s : State) : (drawWrite s).2.dtrHist = s.dtrHist := by unfold drawWrite; split <;> rfl
@[simp] theorem drawWrite_pend (s : State) : (drawWrite s).2.pend = s.pend := by unfold drawWrite; split <;> rfl
@[simp] theorem drawWrite_results (s : State) : (drawWrite s).2.results = s.results := by unfold drawWrite; split <;> rfl

@[simp] theorem appendRx_params (b : Byte) (s : State) : (appendRx b s).params = s.params := by
  unfold appendRx; split <;> (try split) <;> rfl
@[simp] theorem appendRx_linkOpen (b : Byte) (s : State) : (appendRx b s).linkOpen = s.linkOpen := by
  unfold appendRx; split <;> (try split) <;> rfl
@[simp] theorem appendRx_cfg (b : Byte) (s : State) : (appendRx b s).cfg = s.cfg := by
  unfold appendRx; split <;> (try split) <;> rfl
@[simp] theorem appendRx_timeoutMs (b : Byte) (s : State) : (appendRx b s).timeoutMs = s.timeoutMs := by
  unfold appendRx; split <;> (try split) <;> rfl
@[simp] theorem appendRx_dtr (b : Byte) (s : State) : (appendRx b s).dtr = s.dtr := by
  unfold appendRx; split <;> (try split) <;> rfl
@[simp] theorem appendRx_crcAcc (b : Byte) (s : State) : (appendRx b s).crcAcc = s.crcAcc := by
  unfold appendRx; split <;> (try split) <;> rfl
@[simp] theorem appendRx_dec (b : Byte) (s : State) : (appendRx b s).dec = s.dec := by
  unfold appendRx; split <;> (try split) <;> rfl
@[simp] theorem appendRx_res (b : Byte) (s : State) : (appendRx b s).res = s.res := by
  unfold appendRx; split <;> (try split) <;> rfl
@[simp] theorem appendRx_fldCursor (b : Byte) (s : State) : (appendRx b s).fldCursor = s.fldCursor := by
  unfold appendRx; split <;> (try split) <;> rfl
@[simp] theorem appendRx_refused (b : Byte) (s : State) : (appendRx b s).refused = s.refused := by
  unfold appendRx; split <;> (try split) <;> rfl
@[simp] theorem appendRx_txHist (b : Byte) (s : State) : (appendRx b s).txHist = s.txHist := by
  unfold appendRx; split <;> (try split) <;> rfl
@[simp] theorem appendRx_dtrHist (b : Byte) (s : State) : (appendRx b s).dtrHist = s.dtrHist := by
  unfold appendRx; split <;> (try split) <;> rfl
@[simp] theorem appendRx_pend (b : Byte) (s : State) : (appendRx b s).pend = s.pend := by
  unfold appendRx; split <;> (try split) <;> rfl
@[simp] theorem appendRx_results (b : Byte) (s : State) : (appendRx b s).results = s.results := by
  unfold appendRx; split <;> (try split) <;> rfl
@[simp] theorem appendRx_outside (b : Byte) (s : State) : (appendRx b s).outside = s.outside := by
  unfold appendRx; split <;> (try split) <;> rfl

@[simp] theorem envReceive_params (b : Byte) (s : State) : (envReceive b s).params = s.params := by
  unfold envReceive; split <;> rfl
@[simp] theorem envReceive_linkOpen (b : Byte) (s : State) : (envReceive b s).linkOpen = s.linkOpen := by
  unfold envReceive; split <;> rfl
@[simp] theorem envReceive_cfg (b : Byte) (s : State) : (envReceive b s).cfg = s.cfg := by
  unfold envReceive; split <;> rfl
@[simp] theorem envReceive_timeoutMs (b : Byte) (s : State) : (envReceive b s).timeoutMs = s.timeoutMs := by
  unfold envReceive; split <;> rfl
@[simp] theorem envReceive_dtr (b : Byte) (s : State) : (envReceive b s).dtr = s.dtr := by
  unfold envReceive; split <;> rfl
@[simp] theorem envReceive_crcAcc (b : Byte) (s : State) : (envReceive b s).crcAcc = s.crcAcc := by
  unfold envReceive; split <;> rfl
@[simp] theorem envReceive_dec (b : Byte) (s : State) : (envReceive b s).dec = s.dec := by
  unfold envReceive; split <;> rfl
@[simp] theorem envReceive_res (b : Byte) (s : State) : (envReceive b s).res = s.res := by
  unfold envReceive; split <;> rfl
@[simp] theorem envReceive_fldCursor (b : Byte) (s : State) : (envReceive b s).fldCursor = s.fldCursor := by
  unfold envReceive; split <;> rfl
@[simp] theorem envReceive_fault (b : Byte) (s : State) : (envReceive b s).fault = s.fault := by
  unfold envReceive; split <;> rfl
@[simp] theorem envReceive_refused (b : Byte) (s : State) : (envReceive b s).refused = s.refused := by
  unfold envReceive; split <;> rfl
@[simp] theorem envReceive_txHist (b : Byte) (s : State) : (envReceive b s).txHist = s.txHist := by
  unfold envReceive; split <;> rfl
@[simp] theorem envReceive_dtrHist (b : Byte) (s : State) : (envReceive b s).dtrHist = s.dtrHist := by
  unfold envReceive; split <;> rfl
@[simp] theorem envReceive_pend (b : Byte) (s : State) : (envReceive b s).pend = s.pend := by
  unfold envReceive; split <;> rfl
@[simp] theorem envReceive_results (b : Byte) (s : State) : (envReceive b s).results = s.results := by
  unfold envReceive; split <;> rfl
@[simp] theorem envReceive_outside (b : Byte) (s : State) : (envReceive b s).outside = s.outside := by
  unfold envReceive; split <;> rfl

@[simp] theorem feed_params (b : Byte) (s : State) : (feed b s).1.params = s.params := by
  unfold feed; split <;> (try split) <;> rfl
@[simp] theorem feed_linkOpen (b : Byte) (s : State) : (feed b s).1.linkOpen = s.linkOpen := by
  unfold feed; split <;> (try split) <;> rfl
@[simp] theorem feed_cfg (b : Byte) (s : State) : (feed b s).1.cfg = s.cfg := by
  unfold feed; split <;> (try split) <;> rfl
@[simp] theorem feed_timeoutMs (b : Byte) (s : State) : (feed b s).1.timeoutMs = s.timeoutMs := by
  unfold feed; split <;> (try split) <;> rfl
@[simp] theorem feed_dtr (b : Byte) (s : State) : (feed b s).1.dtr = s.dtr := by
  unfold feed; split <;> (try split) <;> rfl
@[simp] theorem feed_rx (b : Byte) (s : State) : (feed b s).1.rx = s.rx := by
  unfold feed; split <;> (try split) <;> rfl
@[simp] theorem feed_crcAcc (b : Byte) (s : State) : (feed b s).1.crcAcc = s.crcAcc := by
  unfold feed; split <;> (try split) <;> rfl
@[simp] theorem feed_fault (b : Byte) (s : State) : (feed b s).1.fault = s.fault := by
  unfold feed; split <;> (try split) <;> rfl
@[simp] theorem feed_refused (b : Byte) (s : State) : (feed b s).1.refused = s.refused := by
  unfold feed; split <;> (try split) <;> rfl
@[simp] theorem feed_txHist (b : Byte) (s : State) : (feed b s).1.txHist = s.txHist := by
  unfold feed; split <;> (try split) <;> rfl
@[simp] theorem feed_dtrHist (b : Byte) (s : State) : (feed b s).1.dtrHist = s.dtrHist := by
  unfold feed; split <;> (try split) <;> rfl
@[simp] theorem feed_pend (b : Byte) (s : State) : (feed b s).1.pend = s.pend := by
  unfold feed; split <;> (try split) <;> rfl
@[simp] theorem feed_results (b : Byte) (s : State) : (feed b s).1.results = s.results := by
  unfold feed; split <;> (try split) <;> rfl
@[simp] theorem feed_outside (b : Byte) (s : State) : (feed b s).1.outside = s.outside := by
  unfold feed; split <;> (try split) <;> rfl

end Sys2Proof.Machine
end

