-- ==== Sys2Proof/Laws/Ops.lean ====
section
/-! SUPPORT. One lemma for each shared operation, saying what it can do: cite these instead of unfolding the operation. -/

namespace Sys2Proof.Machine

/-! ## Outcomes -/

theorem complete_next_iff (st : Status) (v : Value) (s t : State) :
    complete st v s = .next t ↔ t = { s with results := s.results ++ [⟨st, v⟩] } := by
  simp only [complete, answer, Host.Outcome.next.injEq]; exact eq_comm

theorem raise_next_iff (k : Fault) (s t : State) :
    raise k s = .next t ↔ t = { s with fault := addFault k s.fault } := by
  simp only [raise, recordFault, Host.Outcome.next.injEq]; exact eq_comm

theorem mem_addFault (k j : Fault) (f : List Fault) : j ∈ addFault k f ↔ j = k ∨ j ∈ f := by
  cases j <;> simp [addFault, faultKinds]

theorem addFault_nil (k : Fault) : addFault k [] = [k] := by cases k <;> rfl

theorem refuse_eq (s : State) : refuse s = .next { s with refused := true } := rfl

theorem requireOpen_of_open (s : State) (o : StepOutcome) (h : s.linkOpen = true) : requireOpen s o = o := by
  simp [requireOpen, h]

theorem requireOpen_of_closed (s : State) (o : StepOutcome) (h : s.linkOpen = false) :
    requireOpen s o = raise .notOpen s := by
  simp [requireOpen, h]

/-- What a guarded operation can do: on an open line the rest of it, on a closed one F_NOT_OPEN. -/
theorem requireOpen_next (s t : State) (o : StepOutcome) (h : requireOpen s o = .next t) :
    (s.linkOpen = true ∧ o = .next t) ∨ (s.linkOpen = false ∧ t = { s with fault := addFault .notOpen s.fault }) := by
  unfold requireOpen at h
  split at h
  · exact .inl ⟨by assumption, h⟩
  · exact .inr ⟨by simpa using ‹¬s.linkOpen = true›, (raise_next_iff _ _ _).mp h⟩

theorem quiescence_eq_none_iff (s : State) : quiescence s = none ↔ s.live := by
  unfold quiescence State.live
  cases s.fault with
  | nil => cases s.refused <;> simp
  | cons k ks => simp

theorem quiescence_of_live (s : State) (h : s.live) : quiescence s = none := (quiescence_eq_none_iff s).mpr h

/-- A quiescent block's step is no next state. -/
theorem quiescence_ne_next (s t : State) : quiescence s ≠ some (.next t) := by
  unfold quiescence
  cases s.fault with
  | nil => cases s.refused <;> simp
  | cons k ks => simp

/-! ## Draws -/

/-- A draw takes the answer that is ready, or a free value; only the environment's lists change. -/
theorem drawOpen_cases (s : State) :
    (∃ o os, s.outside.openAnswers = o :: os
        ∧ drawOpen s = (o, { s with outside := { s.outside with openAnswers := os } }))
      ∨ (s.outside.openAnswers = []
        ∧ drawOpen s = (Config.openOutcome s.outside.draws,
            { s with outside := { s.outside with draws := s.outside.draws + 1 } })) := by
  unfold drawOpen
  cases h : s.outside.openAnswers with
  | nil => exact .inr ⟨rfl, rfl⟩
  | cons o os => exact .inl ⟨o, os, rfl, rfl⟩

theorem drawWrite_cases (s : State) :
    (∃ w ws, s.outside.writeAnswers = w :: ws
        ∧ drawWrite s = (w, { s with outside := { s.outside with writeAnswers := ws } }))
      ∨ (s.outside.writeAnswers = []
        ∧ drawWrite s = (Config.writeOutcome s.outside.draws,
            { s with outside := { s.outside with draws := s.outside.draws + 1 } })) := by
  unfold drawWrite
  cases h : s.outside.writeAnswers with
  | nil => exact .inr ⟨rfl, rfl⟩
  | cons w ws => exact .inl ⟨w, ws, rfl, rfl⟩

theorem drawOpen_snd (s : State) : (drawOpen s).2 = { s with outside := (drawOpen s).2.outside } := by
  rcases drawOpen_cases s with ⟨o, os, -, h⟩ | ⟨-, h⟩ <;> rw [h]

theorem drawWrite_snd (s : State) : (drawWrite s).2 = { s with outside := (drawWrite s).2.outside } := by
  rcases drawWrite_cases s with ⟨o, os, -, h⟩ | ⟨-, h⟩ <;> rw [h]

/-! ## Fields and the receive path -/

/-- What a GET can do. -/
theorem getField_next (w : Nat) (signed : Bool) (s t : State) (h : getField w signed s = .next t) :
    (s.res.status = .frameOk ∧ s.fldCursor.toNat + w ≤ (responseData s.res).length
        ∧ t = { s with
            fldCursor := s.fldCursor + BitVec.ofNat 8 w
            results := s.results
              ++ [⟨.ok, .int (fieldValue signed (((responseData s.res).drop s.fldCursor.toNat).take w))⟩] })
      ∨ (s.res.status = .frameOk ∧ (responseData s.res).length < s.fldCursor.toNat + w
        ∧ t = { s with fault := addFault .fieldUnderrun s.fault })
      ∨ (s.res.status ≠ .frameOk ∧ t = { s with fault := addFault .noFrame s.fault }) := by
  unfold getField at h
  split at h
  · rename_i hs
    split at h
    · rename_i hl
      exact .inr (.inl ⟨hs, hl, (raise_next_iff _ _ _).mp h⟩)
    · rename_i hl
      exact .inl ⟨hs, by omega, (complete_next_iff _ _ _ _).mp h⟩
  · rename_i hs
    exact .inr (.inr ⟨hs, (raise_next_iff _ _ _).mp h⟩)

theorem putField_eq (w : Nat) (v : Int) (s : State) :
    putField w v s = .next { s with results := s.results ++ [⟨.ok, .bytes (put w v)⟩] } := rfl

/-- What appending a byte can do. -/
theorem appendRx_cases (b : Byte) (s : State) :
    (s.rx.last ≠ s.rx.cap
        ∧ appendRx b s = { s with rx := { s.rx with buf := s.rx.buf.write s.rx.last b, last := s.rx.last + 1 } })
      ∨ (s.rx.last = s.rx.cap ∧ s.rx.cap < s.params.maxCap
        ∧ appendRx b s =
          { s with
            rx := { s.rx with buf := s.rx.buf.write s.rx.last b, cap := 2 * s.rx.cap, last := s.rx.last + 1 } })
      ∨ (s.rx.last = s.rx.cap ∧ s.params.maxCap ≤ s.rx.cap
        ∧ appendRx b s = { s with fault := addFault .rxOverflow s.fault }) := by
  unfold appendRx
  by_cases h : s.rx.last = s.rx.cap
  · by_cases h' : s.rx.cap < s.params.maxCap
    · exact .inr (.inl ⟨h, h', by rw [if_pos h, if_pos h']⟩)
    · exact .inr (.inr ⟨h, by omega, by rw [if_pos h, if_neg h']; rfl⟩)
  · exact .inl ⟨h, by rw [if_neg h]⟩

theorem consumeRx_eq (rx : RxUnit) :
    consumeRx rx = { rx with first := if rx.first + 1 = rx.last then 0 else rx.first + 1,
                             last := if rx.first + 1 = rx.last then 0 else rx.last } := by
  unfold consumeRx; split <;> simp

theorem readerEnabled_iff (b : Byte) (s : State) :
    readerEnabled b s = true ↔ s.linkOpen = true ∧ ∃ tail, s.rx.line = b :: tail := by
  cases h : s.rx.line with
  | nil => simp [readerEnabled, h]
  | cons c cs => simp [readerEnabled, h]

theorem timerEnabled_iff (s : State) :
    timerEnabled s = true
      ↔ s.pend = .readOne ∧ s.rx.last = s.rx.first ∧ s.timeoutMs ≠ 0 ∧ s.params.hasReadTimeout = true := by
  simp [timerEnabled, and_assoc]

theorem legalConfig_iff (baud : Word32) (parity databits stop : Byte) :
    legalConfig baud parity databits stop = true
      ↔ databits = 8 ∧ (parity = 0 ∨ parity = 1 ∨ parity = 2) ∧ (stop = 2 ∨ stop = 3 ∨ stop = 4) ∧ baud ≠ 0 := by
  have h8 : databits.toNat = 8 ↔ databits = 8 := by
    constructor
    · intro h; exact BitVec.eq_of_toNat_eq h
    · rintro rfl; rfl
  simp [legalConfig, Config.dataBits, h8, and_assoc, or_assoc]

/-- What LINK_OPEN can do: the double-open fault, a configuration error, the environment's refusal, or a fresh link. -/
theorem execLinkOpen_next (baud : Word32) (parity databits stop : Byte) (s t : State)
    (h : execLinkOpen baud parity databits stop s = .next t) :
    (s.linkOpen = true ∧ t = { s with fault := addFault .doubleOpen s.fault })
      ∨ (s.linkOpen = false ∧ legalConfig baud parity databits stop = false
        ∧ t = { s with results := s.results ++ [⟨.configError, .none⟩] })
      ∨ (s.linkOpen = false ∧ legalConfig baud parity databits stop = true ∧ (drawOpen s).1 ≠ .ok
        ∧ t = { s with
            outside := (drawOpen s).2.outside
            results := s.results ++ [⟨openStatus (drawOpen s).1, .none⟩] })
      ∨ (s.linkOpen = false ∧ legalConfig baud parity databits stop = true ∧ (drawOpen s).1 = .ok
        ∧ t = { s with
            linkOpen := true
            cfg := ⟨baud, parity.setWidth 2, 8, stop.setWidth 3⟩
            timeoutMs := 0
            rx := ⟨[], s.params.initCap, 0, 0, []⟩
            outside := (drawOpen s).2.outside
            results := s.results ++ [⟨.ok, .none⟩] }) := by
  unfold execLinkOpen at h
  split at h
  · exact .inl ⟨by assumption, (raise_next_iff _ _ _).mp h⟩
  · rename_i hc
    have hc : s.linkOpen = false := by simpa using hc
    split at h
    · rename_i hl
      have h2 := drawOpen_snd s
      split at h
      · rename_i s' hd
        rw [hd] at h2
        obtain rfl := (complete_next_iff _ _ _ _).mp h
        refine .inr (.inr (.inr ⟨hc, hl, by rw [hd], ?_⟩))
        rw [hd]
        simp only at h2 ⊢
        rw [h2]
        rfl
      · rename_i o s' hne hd
        rw [hd] at h2
        obtain rfl := (complete_next_iff _ _ _ _).mp h
        refine .inr (.inr (.inl ⟨hc, hl, by rw [hd]; exact fun e => hne e, ?_⟩))
        rw [hd]
        simp only at h2 ⊢
        rw [h2]
    · rename_i hl
      exact .inr (.inl ⟨hc, by simpa using hl, (complete_next_iff _ _ _ _).mp h⟩)

/-- What LINK_WRITE does on an open line. -/
theorem execLinkWrite_eq (bytes : List Byte) (s : State) (h : s.linkOpen = true) :
    execLinkWrite bytes s = .next
      { s with
        txHist := s.txHist ++ sentBytes bytes (drawWrite s).1
        outside := (drawWrite s).2.outside
        results := s.results ++ [⟨if (drawWrite s).1 = .ok then .ok else .ioError, .none⟩] } := by
  have h2 := drawWrite_snd s
  rcases hx : drawWrite s with ⟨o, s'⟩
  rw [hx] at h2
  simp only at h2
  simp only [execLinkWrite, requireOpen_of_open s _ h, hx]
  rw [h2]
  cases o <;> simp [complete, answer, sentBytes]

/-! ## Steps -/

/-- What a step can do: a live block takes the next turn, or waits where there is none. -/
theorem step_next (s t : State) (h : step s = .next t) :
    s.live ∧ ((s.outside.schedule = [] ∧ t = s)
      ∨ ∃ turn rest, s.outside.schedule = turn :: rest
        ∧ takeTurn turn { s with outside := { s.outside with schedule := rest } } = .next t) := by
  unfold step blockStep at h
  cases hq : quiescence s with
  | some o =>
    rw [hq] at h
    subst h
    exact absurd hq (quiescence_ne_next s t)
  | none =>
    rw [hq] at h
    refine ⟨(quiescence_eq_none_iff s).mp hq, ?_⟩
    cases hs : s.outside.schedule with
    | nil => rw [hs] at h; exact .inl ⟨rfl, by simpa using h.symm⟩
    | cons turn rest => rw [hs] at h; exact .inr ⟨turn, rest, rfl, h⟩

/-- What a turn can do: the retry of a held read, an event of the READER or the TIMER, an operation of a client that
holds no read, its refusal, ENV's byte, or nothing. -/
theorem takeTurn_next (turn : Turn) (s t : State) (h : takeTurn turn s = .next t) :
    (s.pend = .readOne ∧ exec .rxReadOne s = .next t)
      ∨ (∃ i, i.isEvent = true ∧ exec i s = .next t)
      ∨ (s.pend = .none ∧ ∃ i ts, exec i { s with outside := { s.outside with program := ts } } = .next t)
      ∨ (∃ ts, t = { s with refused := true, outside := { s.outside with program := ts } })
      ∨ (∃ b, t = envReceive b s) ∨ t = s := by
  cases turn with
  | envRx b => exact .inr (.inr (.inr (.inr (.inl ⟨b, by simpa [takeTurn] using h.symm⟩))))
  | event w =>
    simp only [takeTurn, eventTurn] at h
    split at h
    · exact .inr (.inl ⟨_, decodeEvent_isEvent w _ ‹_›, h⟩)
    · exact .inr (.inr (.inr (.inr (.inr (by simpa using h.symm)))))
  | client =>
    simp only [takeTurn, clientTurn] at h
    split at h
    · exact .inl ⟨‹_›, h⟩
    · rename_i hp _
      simp only [issue] at h
      split at h
      · exact .inr (.inr (.inl ⟨hp, _, _, h⟩))
      · exact .inr (.inr (.inr (.inl ⟨_, by simpa [refuse] using h.symm⟩)))
    · exact .inr (.inr (.inr (.inr (.inr (by simpa using h.symm)))))

/-- Operations issued one after another: the first of them, then the rest. -/
theorem runOps_cons (i : Instr) (is : List Instr) (s t : State) (hl : s.live) (hp : s.pend = .none)
    (he : exec i s = .next t) : runOps (i :: is) s = runOps is t := by
  simp [runOps, quiescence_of_live s hl, hp, he]

theorem runOps_append (is js : List Instr) (s t : State) (h : runOps is s = .next t) (hl : t.live)
    (hp : t.pend = .none) : runOps (is ++ js) s = runOps js t := by
  induction is generalizing s with
  | nil =>
    have : s = t := by simpa [runOps] using h
    subst this; rfl
  | cons i is ih =>
    simp only [runOps, List.cons_append] at h ⊢
    cases hq : quiescence s with
    | some o =>
      rw [hq] at h
      subst h
      exact absurd hq (quiescence_ne_next s t)
    | none =>
      rw [hq] at h
      simp only at h ⊢
      cases hsp : s.pend with
      | readOne =>
        rw [hsp] at h
        have : s = t := by simpa using h
        subst this
        rw [hsp] at hp
        cases hp
      | none =>
        rw [hsp] at h
        simp only at h ⊢
        cases hx : exec i s with
        | next u => rw [hx] at h; exact ih u h
        | fault k => rw [hx] at h; cases h
        | refused r => rw [hx] at h; cases h

/-! ## RECV_FRAME -/

@[simp] theorem recvFrameNext_start : recvFrameNext none = some .rxReadOne := rfl
@[simp] theorem recvFrameNext_byte (b : Byte) : recvFrameNext (some ⟨.ok, .byte b⟩) = some (.decFeed b) := rfl
@[simp] theorem recvFrameNext_more : recvFrameNext (some ⟨.ok, .bit false⟩) = some .rxReadOne := rfl
@[simp] theorem recvFrameNext_done : recvFrameNext (some ⟨.ok, .bit true⟩) = none := rfl
@[simp] theorem recvFrameNext_timeout : recvFrameNext (some ⟨.timeout, .none⟩) = none := rfl

theorem recvFrameOps_cons (b : Byte) (bytes : List Byte) (exit : RecvExit) :
    recvFrameOps (b :: bytes) exit = .rxReadOne :: .decFeed b :: recvFrameOps bytes exit := rfl

/-! ## The line -/

theorem lineLevels_append (cfg : LineConfig) (a b : List Sending) :
    lineLevels cfg (a ++ b) = lineLevels cfg a ++ lineLevels cfg b := List.flatMap_append

theorem lineLevels_cons (cfg : LineConfig) (x : Sending) (l : List Sending) :
    lineLevels cfg (x :: l)
      = List.replicate x.gap idleLevel ++ characterLevels cfg x.byte ++ lineLevels cfg l := List.flatMap_cons

end Sys2Proof.Machine
end

