-- ==== Sys2Proof/Laws/PerInstr.lean ====
section
/-! SUPPORT. The family OpcodeRow: every operation's word lies in its own row of spec/opcode_table.json. -/

namespace Sys2Proof.Laws.OpcodeRow

/-- The mask and match of an operation's row. -/
def row : Instr → OpWord × OpWord
  | .linkOpen _ _ _ _ => (0xFFFF, 0x1000)
  | .linkWrite _ => (0xFFFF, 0x1100)
  | .linkSetTimeout _ => (0xFFFF, 0x1200)
  | .linkPulseReset => (0xFFFF, 0x1300)
  | .linkClose => (0xFFFF, 0x1400)
  | .rxReadOne => (0xFFFF, 0x2000)
  | .rxAvailable => (0xFFFF, 0x2100)
  | .rxClear => (0xFFFF, 0x2200)
  | .encode _ _ => (0xFF00, 0x3000)
  | .crcClear => (0xFFFF, 0x4000)
  | .crcStep _ => (0xFF00, 0x4100)
  | .crcRead => (0xFFFF, 0x4200)
  | .decReset => (0xFFFF, 0x5000)
  | .decFeed _ => (0xFF00, 0x5100)
  | .decResult => (0xFFFF, 0x5200)
  | .putU8 _ => (0xFFFF, 0x6000)
  | .putI8 _ => (0xFFFF, 0x6100)
  | .putU16 _ => (0xFFFF, 0x6200)
  | .putI16 _ => (0xFFFF, 0x6300)
  | .putU32 _ => (0xFFFF, 0x6400)
  | .putI32 _ => (0xFFFF, 0x6500)
  | .getU8 => (0xFFFF, 0x7000)
  | .getI8 => (0xFFFF, 0x7100)
  | .getU16 => (0xFFFF, 0x7200)
  | .getI16 => (0xFFFF, 0x7300)
  | .getU32 => (0xFFFF, 0x7400)
  | .getI32 => (0xFFFF, 0x7500)
  | .evtRxDeliver _ => (0xFF00, 0xF000)
  | .evtTimer => (0xFFFF, 0xF100)

/-- The word an operation is encoded as matches its row, and the decoder's three fields rebuild it. -/
def Statement (i : Instr) : Prop :=
  encodeWord i &&& (row i).1 = (row i).2
    ∧ opWord (opField (encodeWord i)) (subField (encodeWord i)) (immField (encodeWord i)) = encodeWord i

/-- A word with its low byte masked off. -/
theorem masked_imm (op sub : BitVec 4) (imm : Byte) : opWord op sub imm &&& 0xFF00 = opWord op sub 0 := by
  apply BitVec.eq_of_getElem_eq
  intro i hi
  have mask : (0xFF00#16)[i] = decide (8 ≤ i) := by revert i; decide
  unfold opWord
  rw [BitVec.getElem_and, BitVec.getElem_append, BitVec.getElem_append]
  by_cases h : i < 8
  · simp [h, mask]
  · simp [h, mask, Nat.le_of_not_lt h]

theorem linkOpen (a : Word32) (b c d : Byte) : Statement (.linkOpen a b c d) := ⟨by simp only [encodeWord, row]; decide, opWord_fields _⟩
theorem linkWrite (a : List Byte) : Statement (.linkWrite a) := ⟨by simp only [encodeWord, row]; decide, opWord_fields _⟩
theorem linkSetTimeout (a : Word32) : Statement (.linkSetTimeout a) := ⟨by simp only [encodeWord, row]; decide, opWord_fields _⟩
theorem linkPulseReset : Statement (.linkPulseReset) := ⟨by simp only [encodeWord, row]; decide, opWord_fields _⟩
theorem linkClose : Statement (.linkClose) := ⟨by simp only [encodeWord, row]; decide, opWord_fields _⟩
theorem rxReadOne : Statement (.rxReadOne) := ⟨by simp only [encodeWord, row]; decide, opWord_fields _⟩
theorem rxAvailable : Statement (.rxAvailable) := ⟨by simp only [encodeWord, row]; decide, opWord_fields _⟩
theorem rxClear : Statement (.rxClear) := ⟨by simp only [encodeWord, row]; decide, opWord_fields _⟩
theorem encode (a : Byte) (b : List Byte) : Statement (.encode a b) := ⟨(masked_imm _ _ a).trans (by simp only [row]; decide), opWord_fields _⟩
theorem crcClear : Statement (.crcClear) := ⟨by simp only [encodeWord, row]; decide, opWord_fields _⟩
theorem crcStep (a : Byte) : Statement (.crcStep a) := ⟨(masked_imm _ _ a).trans (by simp only [row]; decide), opWord_fields _⟩
theorem crcRead : Statement (.crcRead) := ⟨by simp only [encodeWord, row]; decide, opWord_fields _⟩
theorem decReset : Statement (.decReset) := ⟨by simp only [encodeWord, row]; decide, opWord_fields _⟩
theorem decFeed (a : Byte) : Statement (.decFeed a) := ⟨(masked_imm _ _ a).trans (by simp only [row]; decide), opWord_fields _⟩
theorem decResult : Statement (.decResult) := ⟨by simp only [encodeWord, row]; decide, opWord_fields _⟩
theorem putU8 (a : Int) : Statement (.putU8 a) := ⟨by simp only [encodeWord, row]; decide, opWord_fields _⟩
theorem putI8 (a : Int) : Statement (.putI8 a) := ⟨by simp only [encodeWord, row]; decide, opWord_fields _⟩
theorem putU16 (a : Int) : Statement (.putU16 a) := ⟨by simp only [encodeWord, row]; decide, opWord_fields _⟩
theorem putI16 (a : Int) : Statement (.putI16 a) := ⟨by simp only [encodeWord, row]; decide, opWord_fields _⟩
theorem putU32 (a : Int) : Statement (.putU32 a) := ⟨by simp only [encodeWord, row]; decide, opWord_fields _⟩
theorem putI32 (a : Int) : Statement (.putI32 a) := ⟨by simp only [encodeWord, row]; decide, opWord_fields _⟩
theorem getU8 : Statement (.getU8) := ⟨by simp only [encodeWord, row]; decide, opWord_fields _⟩
theorem getI8 : Statement (.getI8) := ⟨by simp only [encodeWord, row]; decide, opWord_fields _⟩
theorem getU16 : Statement (.getU16) := ⟨by simp only [encodeWord, row]; decide, opWord_fields _⟩
theorem getI16 : Statement (.getI16) := ⟨by simp only [encodeWord, row]; decide, opWord_fields _⟩
theorem getU32 : Statement (.getU32) := ⟨by simp only [encodeWord, row]; decide, opWord_fields _⟩
theorem getI32 : Statement (.getI32) := ⟨by simp only [encodeWord, row]; decide, opWord_fields _⟩
theorem evtRxDeliver (a : Byte) : Statement (.evtRxDeliver a) := ⟨(masked_imm _ _ a).trans (by simp only [row]; decide), opWord_fields _⟩
theorem evtTimer : Statement (.evtTimer) := ⟨by simp only [encodeWord, row]; decide, opWord_fields _⟩

end Sys2Proof.Laws.OpcodeRow
end

