-- ==== Sys2Proof/Tests/Slice0.lean ====
section
/-! SUPPORT. Words written out from the opcode map (30_encoding.md R63), smoke tests of the checks, one-step vectors of
95_test_vectors.md, and for every statement of the obligations a state and operands that meet its hypotheses. -/

namespace Sys2Proof.Tests

open Sys2Proof Sys2Proof.Machine

/-! ## Words of the opcode map, written out field by field: op, sub, imm -/

theorem test_word_linkOpen :
    decode ⟨0b0001_0000_00000000, [38400, 0, 8, 2]⟩ = .ok (.linkOpen 38400 0 8 2) := by decide
theorem test_word_linkWrite :
    decode ⟨0b0001_0001_00000000, [0xD5, 1, 0x81, 0xD2]⟩ = .ok (.linkWrite [0xD5, 0x01, 0x81, 0xD2]) := by decide
theorem test_word_linkSetTimeout : decode ⟨0b0001_0010_00000000, [8000]⟩ = .ok (.linkSetTimeout 8000) := by decide
theorem test_word_linkPulseReset : decode ⟨0b0001_0011_00000000, []⟩ = .ok .linkPulseReset := by decide
theorem test_word_linkClose : decode ⟨0b0001_0100_00000000, []⟩ = .ok .linkClose := by decide
theorem test_word_rxReadOne : decode ⟨0b0010_0000_00000000, []⟩ = .ok .rxReadOne := by decide
theorem test_word_rxAvailable : decode ⟨0b0010_0001_00000000, []⟩ = .ok .rxAvailable := by decide
theorem test_word_rxClear : decode ⟨0b0010_0010_00000000, []⟩ = .ok .rxClear := by decide
theorem test_word_encode : decode ⟨0b0011_0000_00000010, [0x89, 0x87]⟩ = .ok (.encode 2 [0x89, 0x87]) := by decide
theorem test_word_crcClear : decode ⟨0b0100_0000_00000000, []⟩ = .ok .crcClear := by decide
theorem test_word_crcStep : decode ⟨0b0100_0001_11011000, []⟩ = .ok (.crcStep 0xD8) := by decide
theorem test_word_crcRead : decode ⟨0b0100_0010_00000000, []⟩ = .ok .crcRead := by decide
theorem test_word_decReset : decode ⟨0b0101_0000_00000000, []⟩ = .ok .decReset := by decide
theorem test_word_decFeed : decode ⟨0b0101_0001_01100101, []⟩ = .ok (.decFeed 0x65) := by decide
theorem test_word_decResult : decode ⟨0b0101_0010_00000000, []⟩ = .ok .decResult := by decide
theorem test_word_putU8 : decode ⟨0b0110_0000_00000000, [255]⟩ = .ok (.putU8 255) := by decide
theorem test_word_putI8 : decode ⟨0b0110_0001_00000000, [-128]⟩ = .ok (.putI8 (-128)) := by decide
theorem test_word_putU16 : decode ⟨0b0110_0010_00000000, [65535]⟩ = .ok (.putU16 65535) := by decide
theorem test_word_putI16 : decode ⟨0b0110_0011_00000000, [-32768]⟩ = .ok (.putI16 (-32768)) := by decide
theorem test_word_putU32 : decode ⟨0b0110_0100_00000000, [4294967295]⟩ = .ok (.putU32 4294967295) := by decide
theorem test_word_putI32 : decode ⟨0b0110_0101_00000000, [-15000]⟩ = .ok (.putI32 (-15000)) := by decide
theorem test_word_getU8 : decode ⟨0b0111_0000_00000000, []⟩ = .ok .getU8 := by decide
theorem test_word_getI8 : decode ⟨0b0111_0001_00000000, []⟩ = .ok .getI8 := by decide
theorem test_word_getU16 : decode ⟨0b0111_0010_00000000, []⟩ = .ok .getU16 := by decide
theorem test_word_getI16 : decode ⟨0b0111_0011_00000000, []⟩ = .ok .getI16 := by decide
theorem test_word_getU32 : decode ⟨0b0111_0100_00000000, []⟩ = .ok .getU32 := by decide
theorem test_word_getI32 : decode ⟨0b0111_0101_00000000, []⟩ = .ok .getI32 := by decide
theorem test_word_evtRxDeliver : decodeEvent 0b1111_0000_01111010 = .ok (.evtRxDeliver 0x7A) := by decide
theorem test_word_evtTimer : decodeEvent 0b1111_0001_00000000 = .ok .evtTimer := by decide

/-- Multi-byte operands in the byte form are little-endian (D31): PUT_I32 -2, low byte first. -/
theorem test_bytes_putI32 : decodeBytes [0x00, 0x65, 0xFE, 0xFF, 0xFF, 0xFF] = .ok (.putI32 (-2)) := by decide
theorem test_bytes_linkOpen :
    decodeBytes [0x00, 0x10, 0x00, 0x96, 0x00, 0x00, 0x01, 0x08, 0x02] = .ok (.linkOpen 38400 1 8 2) := by decide
theorem test_table_encode : decodeTableWord 16 0x3003 = some (.encode 3 [0, 0, 0]) := by decide
theorem test_table_evt : decodeTableWord 16 0xF0AB = some (.evtRxDeliver 0xAB) := by decide

/-! ## What R64 refuses -/

theorem test_refuse_reservedOp : decodeClient ⟨0x8000, []⟩ = .error .reservedOp := by decide
theorem test_refuse_unlistedSub : decodeClient ⟨0x1500, []⟩ = .error .unlistedSub := by decide
theorem test_refuse_nonzeroImm : decodeClient ⟨0x2001, []⟩ = .error .nonzeroImm := by decide
theorem test_refuse_event : decodeClient ⟨0xF100, []⟩ = .error .eventFromClient := by decide
theorem test_refuse_encodeCount : decodeClient ⟨0x3002, [1, 2, 3]⟩ = .error .badOperands := by decide
theorem test_refuse_byteRange : decodeClient ⟨0x1100, [256]⟩ = .error .badOperands := by decide
theorem test_refuse_shortWord : decodeBytes [0x00] = .error .noWord := by decide

/-! ## Well-formedness: each check refuses an ill-formed term -/

theorem test_wf_encode : (Instr.encode 2 [1, 2, 3]).wellFormed = false := by decide
theorem test_wf_putU8 : (Instr.putU8 (-1)).wellFormed = false ∧ (Instr.putU8 256).wellFormed = false := by decide
theorem test_wf_putI8 : (Instr.putI8 (-129)).wellFormed = false ∧ (Instr.putI8 128).wellFormed = false := by decide
theorem test_wf_putU16 : (Instr.putU16 (-1)).wellFormed = false ∧ (Instr.putU16 65536).wellFormed = false := by decide
theorem test_wf_putI16 :
    (Instr.putI16 (-32769)).wellFormed = false ∧ (Instr.putI16 32768).wellFormed = false := by decide
theorem test_wf_putU32 :
    (Instr.putU32 (-1)).wellFormed = false ∧ (Instr.putU32 4294967296).wellFormed = false := by decide
theorem test_wf_putI32 :
    (Instr.putI32 (-2147483649)).wellFormed = false ∧ (Instr.putI32 2147483648).wellFormed = false := by decide

/-! ## Small states -/

/-- Closed, with RXBUF_INIT_CAP = 2, RXBUF_MAX_CAP = 4 and read timeouts. -/
def closed : State :=
  { State.reset with params := ⟨2, 1, true⟩, rx := ⟨[], 2, 0, 0, []⟩ }

/-- Open at 38400, N, 8, 1. -/
def opened : State := { closed with linkOpen := true, cfg := ⟨38400, 0, 8, 2⟩ }

/-- Open, with these bytes in the buffer from index `first` on, this capacity, and this on the line. -/
def holding (cap first : Nat) (bytes line : List Byte) : State :=
  { opened with
    rx := ⟨(bytes.zipIdx first).map (fun p => (p.2, p.1)), cap, first, first + bytes.length, line⟩ }

/-- A good frame with this payload has been decoded, and `n` data bytes of it consumed. -/
def decoded (payload : List Byte) (n : Byte) : State := { closed with res := ⟨.frameOk, payload⟩, fldCursor := n }

/-- A read holds, with a timeout of 8000 ms. -/
def held : State := { opened with pend := .readOne, timeoutMs := 8000 }

/-- The next state of a step, if there is one. -/
def after : StepOutcome → Option State
  | .next s => some s
  | _ => none

/-- The result records of the next state. -/
def answers (o : StepOutcome) : Option (List Result) := (after o).map State.results

/-! ## One step of each operation, from 95_test_vectors.md -/

/-- Section 2.1. -/
theorem test_linkOpen :
    (after (exec (.linkOpen 38400 0 8 2)
        { closed with timeoutMs := 5, outside := { closed.outside with openAnswers := [.ok] } })).map
      (fun s => (s.linkOpen, s.timeoutMs, s.rx, s.cfg, s.results))
      = some (true, 0, ⟨[], 2, 0, 0, []⟩, ⟨38400, 0, 8, 2⟩, [⟨.ok, .none⟩]) := by decide
theorem test_linkOpen_sevenBits :
    after (exec (.linkOpen 9600 0 7 2) { closed with outside := { closed.outside with openAnswers := [.portNotFound] } })
      = some { closed with
          outside := { closed.outside with openAnswers := [.portNotFound] }, results := [⟨.configError, .none⟩] } := by
  decide
theorem test_linkWrite :
    (after (exec (.linkWrite [0xD5, 0x01, 0x81, 0xD2])
        { opened with outside := { opened.outside with writeAnswers := [.ioError 2] } })).map
      (fun s => (s.txHist, s.results)) = some ([0xD5, 0x01], [⟨.ioError, .none⟩]) := by decide
theorem test_linkWrite_closed :
    after (exec (.linkWrite [0x00]) closed) = some { closed with fault := [.notOpen] } := by decide
theorem test_linkSetTimeout :
    (after (exec (.linkSetTimeout 4294967295) opened)).map (fun s => (s.timeoutMs, s.results))
      = some (4294967295, [⟨.ok, .none⟩]) := by decide
theorem test_linkPulseReset :
    (after (exec .linkPulseReset opened)).map (fun s => (s.dtr, s.dtrHist, s.rx))
      = some (true, [false, true], opened.rx) := by decide
theorem test_linkClose :
    (after (exec .linkClose (holding 4 0 [1, 2] [0xAA]))).map
      (fun s => (s.linkOpen, s.rx.line, s.rx.first, s.rx.last, s.results))
      = some (false, [], 0, 2, [⟨.ok, .none⟩]) := by decide
/-- Section 2.2. -/
theorem test_rxReadOne :
    (after (exec .rxReadOne (holding 4 2 [0x7E] []))).map (fun s => (s.rx.cap, s.rx.first, s.rx.last, s.results))
      = some (4, 0, 0, [⟨.ok, .byte 0x7E⟩]) := by decide
theorem test_rxReadOne_notLast :
    (after (exec .rxReadOne (holding 4 0 [0x41, 0x42] []))).map (fun s => (s.rx.first, s.rx.last, s.results))
      = some (1, 2, [⟨.ok, .byte 0x41⟩]) := by decide
theorem test_rxAvailable : answers (exec .rxAvailable (holding 8 3 [1, 2, 3, 4] [])) = some [⟨.ok, .count 4⟩] := by
  decide
theorem test_rxClear :
    (after (exec .rxClear (holding 8 1 [1, 2, 3, 4] [0x66]))).map
      (fun s => (s.rx.cap, s.rx.first, s.rx.last, s.rx.line)) = some (8, 0, 0, [0x66]) := by decide
/-- 41_rxbuf.md R77's example, at RXBUF_MAX_CAP = 8. -/
theorem test_evtRxDeliver :
    (after (exec (.evtRxDeliver 0x7A) { holding 4 1 [2, 3, 4] [0x7A] with params := ⟨2, 2, true⟩ })).map
      (fun s => (s.rx.cap, s.rx.last, s.rx.buf.read 4, s.rx.line)) = some (8, 5, 0x7A, []) := by decide
theorem test_evtRxDeliver_overflow :
    (after (exec (.evtRxDeliver 5) (holding 4 1 [2, 3, 4] [5]))).map
      (fun s => (s.rx.cap, s.rx.first, s.rx.last, s.rx.line, s.fault)) = some (4, 1, 4, [], [.rxOverflow]) := by decide
theorem test_evtTimer :
    (after (exec .evtTimer held)).map (fun s => (s.pend, s.results)) = some (.none, [⟨.timeout, .none⟩]) := by decide
/-- Section 2.3. -/
theorem test_encode :
    answers (exec (.encode 3 [0x00, 0x64, 0x00]) closed)
      = some [⟨.ok, .bytes [0xD5, 0x03, 0x00, 0x64, 0x00, 0x61]⟩] := by decide +kernel
/-- Section 2.4. -/
theorem test_crcClear : (after (exec .crcClear { closed with crcAcc := 0x5E })).map State.crcAcc = some 0x00 := by
  decide
theorem test_crcStep :
    (after (exec (.crcStep 0x02) { closed with crcAcc := 0x5E })).map (fun s => (s.crcAcc, s.results))
      = some (0x78, [⟨.ok, .crc 0x78⟩]) := by decide
theorem test_crcRead : answers (exec .crcRead { closed with crcAcc := 0xD8 }) = some [⟨.ok, .crc 0xD8⟩] := by decide
theorem test_crc8_check : crc8 [0x31, 0x32, 0x33, 0x34, 0x35, 0x36, 0x37, 0x38, 0x39] = 0xA1 := by decide +kernel
/-- 44_decoder.md R92's example. -/
theorem test_decReset :
    (after (exec .decReset { decoded [0x81] 0 with dec := ⟨.inPayload, 3, 3, [], 0⟩ })).map
      (fun s => (s.dec, s.res)) = some (⟨.awaitStart, 0, 0, [], 0⟩, ⟨.none, []⟩) := by decide
/-- 44_decoder.md R93's example: the done string 0001. -/
theorem test_decFeed :
    (after (runOps (feedAllOps [0xD5, 0x01, 0x81, 0xD2]) closed)).map (fun s => (s.res, s.dec.state, s.results))
      = some (⟨.frameOk, [0x81]⟩, .awaitStart, doneRecords [false, false, false, true]) := by decide
theorem test_decFeed_mismatch :
    (after (exec (.decFeed 0xD3) { closed with dec := ⟨.awaitCrc, 1, 0, [0x81], 0xD2⟩ })).map
      (fun s => (s.res, s.results)) = some (⟨.crcMismatch, []⟩, [⟨.ok, .bit true⟩]) := by decide
theorem test_decResult :
    answers (exec .decResult (decoded [0x85, 0x00] 0))
      = some [⟨.ok, .decoded .frameOk 2 [0x85, 0x00] (some 0x85) .unsupported⟩] := by decide
/-- Section 2.6 and 45_fields.md's examples. -/
theorem test_putU8 : answers (exec (.putU8 133) closed) = some [⟨.ok, .bytes [0x85]⟩] := by decide
theorem test_putI8 : answers (exec (.putI8 (-128)) closed) = some [⟨.ok, .bytes [0x80]⟩] := by decide
theorem test_putU16 : answers (exec (.putU16 100) closed) = some [⟨.ok, .bytes [0x64, 0x00]⟩] := by decide
theorem test_putI16 : answers (exec (.putI16 (-2)) closed) = some [⟨.ok, .bytes [0xFE, 0xFF]⟩] := by decide
theorem test_putU32 : answers (exec (.putU32 1000) closed) = some [⟨.ok, .bytes [0xE8, 0x03, 0x00, 0x00]⟩] := by decide
theorem test_putI32 : answers (exec (.putI32 15000) closed) = some [⟨.ok, .bytes [0x98, 0x3A, 0x00, 0x00]⟩] := by
  decide
theorem test_getU8 : answers (exec .getU8 (decoded [0x81, 0xD5] 0)) = some [⟨.ok, .int 213⟩] := by decide
theorem test_getI8 : answers (exec .getI8 (decoded [0x81, 0x80] 0)) = some [⟨.ok, .int (-128)⟩] := by decide
theorem test_getU16 :
    (after (exec .getU16 (decoded [0x81, 0x65, 0x00] 0))).map (fun s => (s.fldCursor, s.results))
      = some (2, [⟨.ok, .int 101⟩]) := by decide
theorem test_getI16 : answers (exec .getI16 (decoded [0x81, 0xFE, 0xFF] 0)) = some [⟨.ok, .int (-2)⟩] := by decide
theorem test_getU32 :
    answers (exec .getU32 (decoded [0x81, 0xFF, 0xFF, 0xFF, 0xFF] 0)) = some [⟨.ok, .int 4294967295⟩] := by decide
theorem test_getI32 :
    answers (exec .getI32 (decoded [0x81, 0x00, 0xE8, 0x03, 0x00, 0x00] 1)) = some [⟨.ok, .int 1000⟩] := by decide
theorem test_getU16_underrun :
    after (exec .getU16 (decoded [0x81, 0x65] 0)) = some { decoded [0x81, 0x65] 0 with fault := [.fieldUnderrun] } := by
  decide

/-! ## The host's placement -/

theorem test_placed_putU8 :
    answers (step (closed.withFetchWord 16 0x6000)) = some [⟨.ok, .bytes [0x00]⟩] := by decide
theorem test_placed_timer :
    (after (step (State.withFetchWord held 16 0xF100))).map State.pend = some .none := by decide

/-! ## For each statement with hypotheses, a state and operands that meet them all; a range is met at its ends -/

theorem test_meets_DecodeInvertsEncode :
    (Instr.putI32 (-2147483648)).wellFormed = true ∧ (Instr.encode 0 []).wellFormed = true := by decide

theorem test_meets_DecodedTransactionsReencode : decode ⟨0x6100, [127]⟩ = .ok (.putI8 127) := by decide

theorem test_meets_ByteFormDecodesBack : (Instr.putU16 65535).wellFormed = true := by decide

/-- Op 0 spells nothing: no operation's word has it. -/
theorem test_meets_IllFormedTransactionsAreRefused :
    let s := { opened with outside := { opened.outside with program := [⟨0x0000, []⟩], schedule := [.client] } }
    s.live ∧ s.pend = .none ∧ s.outside.schedule = .client :: [] ∧ s.outside.program = ⟨0x0000, []⟩ :: []
      ∧ ∀ i : Instr, i.wellFormed = true → i.isEvent = false → encode i ≠ ⟨0x0000, []⟩ := by
  refine ⟨⟨rfl, rfl⟩, rfl, rfl, rfl, fun i _ _ h => ?_⟩
  have h' : opField (encodeWord i) = 0 := by rw [show encodeWord i = 0 from congrArg Transaction.word h]; decide
  cases i <;> simp [encodeWord] at h'

/-- The five cases: op 0 and op 8, an unlisted sub of each unit, and a nonzero imm of each kind. -/
theorem test_meets_ReservedWordsSpellNothing :
    (opField 0x0FFF).toNat = 0 ∧ 8 ≤ (opField 0x8000).toNat
      ∧ ((opField 0x1500).toNat = 1 ∧ 4 < (subField 0x1500).toNat)
      ∧ ((opField 0x2300).toNat = 2 ∧ 2 < (subField 0x2300).toNat)
      ∧ ((opField 0x3100).toNat = 3 ∧ 0 < (subField 0x3100).toNat)
      ∧ ((opField 0x4300).toNat = 4 ∧ 2 < (subField 0x4300).toNat)
      ∧ ((opField 0x5300).toNat = 5 ∧ 2 < (subField 0x5300).toNat)
      ∧ ((opField 0x6600).toNat = 6 ∧ 5 < (subField 0x6600).toNat)
      ∧ ((opField 0x7600).toNat = 7 ∧ 5 < (subField 0x7600).toNat)
      ∧ (immField 0x1001 ≠ 0 ∧ (opField 0x1001).toNat = 1) ∧ (immField 0x75FF ≠ 0 ∧ (opField 0x75FF).toNat = 7)
      ∧ (immField 0x4001 ≠ 0 ∧ (opField 0x4001).toNat = 4 ∧ (subField 0x4001).toNat ≠ 1)
      ∧ (immField 0x5201 ≠ 0 ∧ (opField 0x5201).toNat = 5 ∧ (subField 0x5201).toNat ≠ 1) := by decide

theorem test_meets_StepRunsTheDecodedOperation :
    let s := { opened with outside := { opened.outside with program := [⟨0x41FF, []⟩], schedule := [.client] } }
    s.live ∧ s.pend = .none ∧ s.outside.schedule = .client :: [] ∧ s.outside.program = ⟨0x41FF, []⟩ :: []
      ∧ decodeClient ⟨0x41FF, []⟩ = .ok (.crcStep 0xFF) :=
  ⟨⟨rfl, rfl⟩, rfl, rfl, rfl, by decide⟩

theorem test_meets_StepRunsTheNamedEvent :
    let s := { opened with outside := { opened.outside with schedule := [.event 0xF07A] } }
    s.live ∧ s.outside.schedule = .event 0xF07A :: [] ∧ decodeEvent 0xF07A = .ok (.evtRxDeliver 0x7A) :=
  ⟨⟨rfl, rfl⟩, rfl, by decide⟩

theorem test_meets_HeldReadBlocksTheClient :
    let s := { held with outside := { held.outside with program := [⟨0x1400, []⟩], schedule := [.client] } }
    s.live ∧ s.pend = .readOne ∧ s.outside.schedule = .client :: [] :=
  ⟨⟨rfl, rfl⟩, rfl, rfl⟩

theorem test_meets_EnvByteJoinsTheOpenLine :
    let s := { opened with outside := { opened.outside with schedule := [.envRx 0x99] } }
    let c := { closed with outside := { closed.outside with schedule := [.envRx 0x99] } }
    s.live ∧ s.outside.schedule = .envRx 0x99 :: [] ∧ s.linkOpen = true
      ∧ c.live ∧ c.outside.schedule = .envRx 0x99 :: [] ∧ c.linkOpen = false :=
  ⟨⟨rfl, rfl⟩, rfl, rfl, ⟨rfl, rfl⟩, rfl, rfl⟩

theorem test_meets_QuiescentBlockStops :
    { closed with fault := [.noFrame] }.fault = .noFrame :: []
      ∧ { closed with refused := true }.fault = [] ∧ { closed with refused := true }.refused = true :=
  ⟨rfl, rfl, rfl⟩

/-- An open line with a byte pending, a byte on the line and the READER's turn. -/
def running : State :=
  { holding 2 0 [0x41] [0x42] with outside := { opened.outside with schedule := [.event 0xF042] } }

theorem running_bounds : RxBounds running where
  first_le_last := by decide
  last_le_cap := by decide
  cap_le_max := by decide
  cap_doubled := ⟨0, by decide⟩

theorem running_decoder : DecoderInv running.dec where
  crc_of_work := by decide
  idle_empty := fun _ => rfl
  in_payload := fun h => by cases h
  in_crc := fun h => by cases h

theorem test_meets_EveryStepKeepsTheInvariants : Inv running ∧ ∃ t, step running = .next t := by
  refine ⟨⟨by decide, running_bounds, fun _ => rfl, ⟨by decide, ?_, ?_⟩, running_decoder,
    ⟨by decide, fun _ => rfl, by decide⟩, ⟨rfl, fun _ => by decide, ?_, fun _ => rfl⟩, by decide⟩, ?_⟩
  · intro a h
    have h : 2 ≤ a := h
    show Memory.listed [(0, 0x41)] a = none
    rw [Memory.listed, if_neg (by omega)]; rfl
  · intro a h1 h2
    have h2 : a < 1 := h2
    have : a = 0 := by omega
    subst this; rfl
  · intro h; cases h
  · exact ⟨_, rfl⟩

theorem test_meets_EveryStepKeepsTheBufferBounds : RxBounds running ∧ ∃ t, step running = .next t :=
  ⟨running_bounds, _, rfl⟩

theorem test_meets_EveryStepKeepsTheDecoderInvariants : DecoderInv running.dec ∧ ∃ t, step running = .next t :=
  ⟨running_decoder, _, rfl⟩

/-- One for each kind. -/
theorem test_meets_FaultsAreRaisedAsTabled :
    (after (exec .rxClear closed)).map State.fault = some [.notOpen]
      ∧ (after (exec (.linkOpen 9600 0 8 2) opened)).map State.fault = some [.doubleOpen]
      ∧ (after (exec (.evtRxDeliver 5) (holding 4 1 [2, 3, 4] [5]))).map State.fault = some [.rxOverflow]
      ∧ (after (exec .getI16 closed)).map State.fault = some [.noFrame]
      ∧ (after (exec .getU8 (decoded [0x81] 0))).map State.fault = some [.fieldUnderrun]
      ∧ closed.fault = [] ∧ opened.fault = [] := by decide

theorem test_meets_ClosedLineFaultsGuardedOperations :
    needsOpenLine (.linkWrite []) ∧ needsOpenLine .rxReadOne ∧ closed.linkOpen = false ∧ closed.fault = [] :=
  ⟨trivial, trivial, rfl, rfl⟩

theorem test_meets_HistoriesAreOnlyWritten :
    (∃ t, exec .linkPulseReset opened = .next t) ∧ (∀ bytes, Instr.linkPulseReset ≠ .linkWrite bytes)
      ∧ (∃ t, exec (.linkWrite [1]) opened = .next t) ∧ Instr.linkWrite [1] ≠ .linkPulseReset :=
  ⟨⟨_, rfl⟩, by simp, ⟨_, execLinkWrite_eq [1] opened rfl⟩, by simp⟩

theorem test_meets_OnlyTheReaderWritesStorage :
    (∃ t, exec (.evtRxDeliver 0x42) running = .next t) ∧ (∀ b p d st, Instr.evtRxDeliver 0x42 ≠ .linkOpen b p d st)
      ∧ ∀ b, Instr.evtRxDeliver 0x42 = .evtRxDeliver b → 0 ≠ running.rx.last :=
  ⟨⟨_, rfl⟩, by simp, fun _ _ => by decide⟩

theorem test_meets_CodecAndLinkAreApart :
    (∃ t, exec (.decFeed 0xD5) opened = .next t) ∧ isCodecOp (.decFeed 0xD5)
      ∧ (∃ t, exec .rxClear opened = .next t) ∧ ¬ isCodecOp .rxClear :=
  ⟨⟨_, rfl⟩, trivial, ⟨_, rfl⟩, id⟩

theorem test_meets_LinkOpenMakesAFreshLink :
    let s := { closed with outside := { closed.outside with openAnswers := [.ok] } }
    s.linkOpen = false ∧ (8 : Byte) = 8 ∧ ((2 : Byte) = 0 ∨ (2 : Byte) = 1 ∨ (2 : Byte) = 2)
      ∧ ((4 : Byte) = 2 ∨ (4 : Byte) = 3 ∨ (4 : Byte) = 4) ∧ (1 : Word32) ≠ 0 ∧ (drawOpen s).1 = .ok := by decide

/-- A second open; each field of the configuration just outside its range; each answer of the environment. -/
theorem test_meets_FailedLinkOpenChangesNothing :
    (opened.linkOpen = true ∧ opened.fault = [])
      ∧ (closed.linkOpen = false ∧ (7 : Byte) ≠ 8 ∧ 3 ≤ (3 : Byte).toNat ∧ (1 : Byte).toNat ≤ 1 ∧ 5 ≤ (5 : Byte).toNat
        ∧ (0 : Word32) = 0)
      ∧ ((2 : Byte).toNat ≤ 2 ∧ 2 ≤ (2 : Byte).toNat ∧ (4 : Byte).toNat ≤ 4 ∧ (1 : Word32) ≠ 0
        ∧ (drawOpen { closed with outside := { closed.outside with openAnswers := [.portNotFound] } }).1 = .portNotFound
        ∧ (drawOpen { closed with outside := { closed.outside with openAnswers := [.portInUse] } }).1 = .portInUse
        ∧ (drawOpen { closed with outside := { closed.outside with openAnswers := [.portOpenError] } }).1
          = .portOpenError) := by decide

theorem test_meets_LinkWriteSendsItsBytes : opened.linkOpen = true := rfl

theorem test_meets_TransmitOrderIsProgramOrder :
    let writes : List (List Byte × Config.WriteOutcome) := [([1, 2], .ok), ([3, 4], .ioError 1)]
    let s := { opened with outside := { opened.outside with writeAnswers := [.ok, .ioError 1] } }
    s.live ∧ s.linkOpen = true ∧ s.pend = .none ∧ s.outside.writeAnswers = writes.map Prod.snd ++ [] :=
  ⟨⟨rfl, rfl⟩, rfl, rfl, rfl⟩

theorem test_meets_LineControlOperationsAct : opened.linkOpen = true := rfl

theorem test_meets_LinkCloseIsIdempotent : closed.linkOpen = false := rfl

/-- The last byte, and one before the last. -/
theorem test_meets_ReadOneTakesTheOldestByte :
    let s := holding 4 2 [0x7E] []
    let s' := holding 4 0 [0x41, 0x42] []
    s.linkOpen = true ∧ s.rx.first + 1 = s.rx.last ∧ s'.linkOpen = true ∧ s'.rx.first + 1 < s'.rx.last := by decide

theorem test_meets_ReadOneHoldsOnAnEmptyBuffer : opened.linkOpen = true ∧ opened.rx.last ≤ opened.rx.first := by decide

theorem test_meets_AvailableCountsAndClearDiscards : (holding 8 3 [1, 2, 3, 4] []).linkOpen = true := rfl

/-- Below the capacity, and full below RXBUF_MAX_CAP. -/
theorem test_meets_ReaderAppendsTheHeadOfTheLine :
    let s := holding 4 0 [1] [0x7A]
    let f := holding 2 0 [1, 2] [0x7A]
    s.linkOpen = true ∧ s.rx.line = 0x7A :: [] ∧ s.rx.last ≠ s.rx.cap
      ∧ f.linkOpen = true ∧ f.rx.line = 0x7A :: [] ∧ f.rx.last = f.rx.cap ∧ f.rx.cap < f.params.maxCap := by decide

theorem test_meets_FullBufferDropsTheByte :
    let s := holding 4 1 [2, 3, 4] [5]
    s.linkOpen = true ∧ s.rx.line = 5 :: [] ∧ s.rx.last = s.rx.cap ∧ s.params.maxCap ≤ s.rx.cap ∧ s.fault = [] := by
  decide

theorem test_meets_TimerEndsTheHeldRead :
    held.pend = .readOne ∧ held.rx.last = held.rx.first ∧ held.timeoutMs ≠ 0 ∧ held.params.hasReadTimeout = true := by
  decide

/-- A closed line, another head, an empty line; and each of the TIMER's four conditions failing alone. -/
theorem test_meets_DisabledAgentsMoveNothing :
    closed.linkOpen = false ∧ (holding 4 0 [] [1]).rx.line.head? ≠ some 2 ∧ opened.rx.line.head? ≠ some 2
      ∧ { held with pend := .none }.pend = .none
      ∧ (let s := { held with rx := ⟨[(0, 1)], 2, 0, 1, []⟩ }; s.rx.last ≠ s.rx.first)
      ∧ { held with timeoutMs := 0 }.timeoutMs = 0
      ∧ { held with params := ⟨2, 1, false⟩ }.params.hasReadTimeout = false := by decide

theorem test_meets_PendingBytesAreReadInOrder :
    let s := holding 4 1 [0x22, 0x33] []
    s.live ∧ s.linkOpen = true ∧ s.pend = .none ∧ s.pending = [0x22, 0x33] :=
  ⟨⟨rfl, rfl⟩, rfl, rfl, rfl⟩

/-- Deliveries, a growth, reads, a CRC step between them and a read that holds when the last byte comes. -/
theorem test_meets_ReceiveBufferIsFifo :
    let s := { opened with
      rx := ⟨[], 2, 0, 0, [0x11, 0x22, 0x33]⟩
      outside :=
        { opened.outside with
          program := [⟨0x2000, []⟩, ⟨0x4101, []⟩, ⟨0x2000, []⟩, ⟨0x2000, []⟩, ⟨0x2000, []⟩, ⟨0x2100, []⟩] } }
    let turns : List Turn :=
      [.event 0xF011, .event 0xF022, .event 0xF033, .client, .client, .client, .client, .client, .envRx 0x44,
        .event 0xF044]
    s.linkOpen = true ∧ s.rx.first = 0 ∧ s.rx.last = 0
      ∧ (∀ x ∈ s.outside.program, decodeClient x ≠ .ok .rxClear ∧ decodeClient x ≠ .ok .linkClose)
      ∧ ∃ t, runTurns turns s = .next t ∧ t.live ∧ t.pending = [0x44] ∧ t.pend = .readOne :=
  ⟨rfl, rfl, rfl, by decide, _, rfl, ⟨rfl, rfl⟩, rfl, rfl⟩

/-- The state after `held`'s timer. -/
def timedOut : State := { held with pend := .none, results := [⟨.timeout, .none⟩] }

/-- The TIMER has every turn, and the line is silent. -/
theorem test_meets_SilentReadEventuallyTimesOut :
    let turns : Nat → Turn := fun _ => .event 0xF100
    let f : Nat → State := fun n => if n = 0 then held else timedOut
    IsRun turns f ∧ TimerFair turns f ∧ (f 0).linkOpen = true ∧ (f 0).pend = .readOne ∧ (f 0).timeoutMs ≠ 0
      ∧ (f 0).params.hasReadTimeout = true ∧ ∀ m, 0 ≤ m → (f m).rx.first = (f m).rx.last := by
  refine ⟨fun n => ?_, fun n _ => ⟨n, le_refl n, rfl⟩, rfl, rfl, by decide, rfl, fun m _ => ?_⟩
  · cases n <;> rfl
  · cases m <;> rfl

theorem test_meets_EncodeReturnsTheFrame : ([] : List Byte).length = (0 : Byte).toNat := rfl

theorem test_meets_EncodedFramesAreWellFormed :
    ([0x89, 0x87] : List Byte).length = (2 : Byte).toNat
      ∧ ∃ t, exec (.encode 2 [0x89, 0x87]) closed = .next t
        ∧ t.results = closed.results ++ [⟨.ok, .bytes (frame 2 [0x89, 0x87])⟩] :=
  ⟨rfl, _, (complete_next_iff _ _ _ _).mpr rfl, rfl⟩

theorem test_meets_WellFormedFramesAreEncodings :
    wellFormedFrame [0xD5, 0x02, 0x89, 0x87, 0x92] = true ∧ wellFormedFrame [0xD5, 0x02, 0x89, 0x87, 0x93] = false := by
  decide +kernel

theorem test_meets_CrcResidueAndLinearity : ([0x12, 0x34] : List Byte).length = ([0x00, 0x01] : List Byte).length := rfl

theorem test_meets_CrcDetectsSingleBitErrors : 1 < ([0x81, 0x65] : List Byte).length ∧ 7 < 8 := by decide

theorem test_meets_CrcBlockComputesTheCrc : closed.live ∧ closed.pend = .none := ⟨⟨rfl, rfl⟩, rfl⟩

/-- The longest payload and the empty one. -/
theorem test_meets_EncodedPayloadsDecodeToThemselves :
    (List.replicate 255 (0 : Byte)).length ≤ 255 ∧ ([] : List Byte).length ≤ 255 ∧ closed.live ∧ closed.pend = .none
      ∧ closed.dec.state = .awaitStart :=
  ⟨List.length_replicate.le, Nat.zero_le _, ⟨rfl, rfl⟩, rfl, rfl⟩

/-- The first payload byte, and the CRC byte of an empty payload. -/
theorem test_meets_SingleBitErrorsEndInMismatch :
    ([0x81, 0x65] : List Byte).length ≤ 255 ∧ 2 ≤ 2 ∧ 2 < ([0x81, 0x65] : List Byte).length + 3
      ∧ 2 < ([] : List Byte).length + 3 ∧ 0 < 8 ∧ closed.live ∧ closed.pend = .none ∧ closed.dec.state = .awaitStart :=
  ⟨by decide, by decide, by decide, by decide, by decide, ⟨rfl, rfl⟩, rfl, rfl⟩

theorem test_meets_NoiseBeforeAFrameIsDiscarded :
    0xD5 ∉ ([0x00, 0xFF, 0x81] : List Byte) ∧ closed.live ∧ closed.pend = .none ∧ closed.dec.state = .awaitStart :=
  ⟨by decide, ⟨rfl, rfl⟩, rfl, rfl⟩

/-- A frame that waits; and, for the timeout, the first byte of one and nothing at all. -/
theorem test_meets_RecvFrameDecodesOrTimesOut :
    (let s := holding 8 1 [0xD5, 0x01, 0x81, 0xD2] []
     ([0x81] : List Byte).length ≤ 255 ∧ s.live ∧ s.linkOpen = true ∧ s.pend = .none ∧ s.dec.state = .awaitStart
      ∧ s.pending = frameOf [0x81])
    ∧ ∀ bytes ∈ ([[0xD5], []] : List (List Byte)),
      let s := { holding 8 1 bytes [] with timeoutMs := 8000 }
      s.live ∧ s.linkOpen = true ∧ s.pend = .none ∧ s.timeoutMs ≠ 0 ∧ s.params.hasReadTimeout = true
        ∧ s.rx.first ≤ s.rx.last ∧ s.pending = bytes
        ∧ ∃ u, runOps (feedAllOps bytes) s = .next u
          ∧ u.results = s.results ++ doneRecords (List.replicate bytes.length false) := by
  refine ⟨⟨by decide, ⟨rfl, rfl⟩, rfl, rfl, rfl, by decide⟩, ?_⟩
  simp only [List.forall_mem_cons, List.not_mem_nil, false_implies, implies_true, and_true]
  exact ⟨⟨⟨rfl, rfl⟩, rfl, rfl, by decide, rfl, by decide, by decide, _, rfl, rfl⟩,
    ⟨⟨rfl, rfl⟩, rfl, rfl, by decide, rfl, by decide, by decide, _, rfl, rfl⟩⟩

/-- By hand from 30_encoding.md R67: the exchange that hears nothing reads once, feeds nothing and asks for the result. -/
theorem test_exchange_times_out :
    exchangeOps [0x81] [] .timeout
      = [.decReset, .encode 1 [0x81], .linkWrite [0xD5, 0x01, 0x81, 0xD2], .rxReadOne, .decResult] := by decide

/-- By hand from R67: a feed after the TIMEOUT is no RECV_FRAME, and neither is one that stops on `done` 0. -/
theorem test_recv_frame_control :
    isRecvFrame none [(.rxReadOne, ⟨.timeout, .none⟩)] = true
      ∧ isRecvFrame none [(.rxReadOne, ⟨.timeout, .none⟩), (.decFeed 0, ⟨.ok, .bit false⟩)] = false
      ∧ isRecvFrame none [(.rxReadOne, ⟨.ok, .byte 7⟩), (.decFeed 7, ⟨.ok, .bit false⟩)] = false := by decide

/-- Both ends of each type's range. -/
theorem test_meets_PutReturnsLittleEndianBytes :
    FieldType.u8.holds 0 ∧ FieldType.u8.holds 255 ∧ FieldType.i8.holds (-128) ∧ FieldType.i8.holds 127
      ∧ FieldType.u16.holds 0 ∧ FieldType.u16.holds 65535 ∧ FieldType.i16.holds (-32768) ∧ FieldType.i16.holds 32767
      ∧ FieldType.u32.holds 0 ∧ FieldType.u32.holds 4294967295 ∧ FieldType.i32.holds (-2147483648)
      ∧ FieldType.i32.holds 2147483647 := by
  simp [FieldType.holds, FieldType.signed, FieldType.width]

/-- The last field that fits. -/
theorem test_meets_GetReadsTheFieldAtTheCursor :
    let s := decoded [0x81, 0x00, 0xE8, 0x03, 0x00, 0x00] 1
    s.res.status = .frameOk ∧ s.fldCursor.toNat + FieldType.i32.width ≤ s.res.payload.length - 1
      ∧ s.res.payload.length ≤ 255 := by decide

/-- No frame; and one byte too few. -/
theorem test_meets_GetFaultsWithoutData :
    closed.fault = [] ∧ closed.res.status ≠ .frameOk
      ∧ (let s := decoded [0x81, 0x65] 0
         s.fault = [] ∧ s.res.status = .frameOk
          ∧ s.res.payload.length - 1 < s.fldCursor.toNat + FieldType.u16.width) := by decide

theorem test_meets_FieldsReadBack :
    let s := decoded [0x81, 0x18, 0xFC] 0
    FieldType.i16.holds (-1000) ∧ s.res.status = .frameOk
      ∧ (s.res.payload.drop 1).drop s.fldCursor.toNat = put FieldType.i16.width (-1000) ++ [] :=
  ⟨by simp [FieldType.holds, FieldType.signed, FieldType.width], rfl, by decide⟩

/-- The first and the last data bit. -/
theorem test_meets_CharactersHaveTheirParity :
    0 < 8 ∧ 7 < 8 ∧ ({ opened.cfg with parity := 1 } : LineConfig).parity = 1
      ∧ ({ opened.cfg with parity := 2 } : LineConfig).parity = 2 := by decide

/-- The ends of a gap of 3, of a character, and the first half-bit after the traffic. -/
theorem test_meets_LineIdlesHigh :
    let x : Sending := ⟨3, 0x81⟩
    0 < x.gap ∧ 2 < x.gap ∧ 0 < characterHalfBits opened.cfg ∧ 19 < characterHalfBits opened.cfg
      ∧ (lineLevels opened.cfg []).length ≤ 0 ∧ (lineLevels opened.cfg [x]).length ≤ 23 := by decide

/-- By hand from 20_memory.md R43: a gap of 3, then 0x81 in 8N1, then idle. -/
theorem test_line_idles_high :
    ((List.range 25).map fun t => lineLevelAt opened.cfg [⟨3, 0x81⟩] t)
      = [true, true, true, false, false, true, true] ++ List.replicate 12 false ++ [true, true, true, true, true, true] := by
  decide

end Sys2Proof.Tests
end

section
/-! PROOFS. The block's turns (00_scope.md R13, R14): how a live block takes the next turn, what the CLIENT's turn issues,
and what a READER's or TIMER's turn runs. -/

namespace Sys2Proof.Machine

/-! ## Reasoning rules for one turn -/

/-- A live block is not quiescent, so its step is the turn at the head of the schedule. -/
theorem step_of_schedule_cons {s : State} {turn : Turn} {rest : List Turn} (hl : s.live)
    (hs : s.outside.schedule = turn :: rest) :
    step s = takeTurn turn { s with outside := { s.outside with schedule := rest } } := by
  unfold step blockStep
  rw [quiescence_of_live s hl, hs]

theorem takeTurn_client (s : State) : takeTurn .client s = clientTurn s := rfl

theorem takeTurn_event (w : OpWord) (s : State) : takeTurn (.event w) s = eventTurn w s := rfl

/-- With no read held, the CLIENT's turn issues the first transaction of the program. -/
theorem clientTurn_of_program_cons {s : State} {t : Transaction} {ts : List Transaction} (hp : s.pend = .none)
    (hprog : s.outside.program = t :: ts) :
    clientTurn s = issue t { s with outside := { s.outside with program := ts } } := by
  unfold clientTurn
  rw [hp, hprog]

/-- A transaction of the client's that decodes is not refused: its operation runs. -/
theorem issue_of_decodeClient_ok {t : Transaction} {i : Instr} (h : decodeClient t = .ok i) (s : State) :
    issue t s = exec i s := by
  unfold issue
  rw [h]

/-- An event word that decodes is no idle turn: its step runs. -/
theorem eventTurn_of_decodeEvent_ok {w : OpWord} {i : Instr} (h : decodeEvent w = .ok i) (s : State) :
    eventTurn w s = exec i s := by
  unfold eventTurn
  rw [h]

/-! ## The statements -/

/-- Settles O7: the step is the CLIENT's turn, which issues the transaction, which runs the operation it decodes to.
Taking the turn off the schedule leaves the held read and the program as they were. -/
theorem stepRunsTheDecodedOperation : Obligations.StepRunsTheDecodedOperation := by
  intro s t ts rest i hl hp hs hprog hdec
  calc step s
    _ = clientTurn { s with outside := { s.outside with schedule := rest } } := by
      rw [step_of_schedule_cons hl hs, takeTurn_client]
    _ = issue t { s with outside := { s.outside with schedule := rest, program := ts } } :=
      clientTurn_of_program_cons hp hprog
    _ = exec i { s with outside := { s.outside with schedule := rest, program := ts } } :=
      issue_of_decodeClient_ok hdec _

/-- Settles O8: the step is the event word's turn, which runs the step that the word names. -/
theorem stepRunsTheNamedEvent : Obligations.StepRunsTheNamedEvent := by
  intro s w rest i hl hs hdec
  rw [step_of_schedule_cons hl hs, takeTurn_event, eventTurn_of_decodeEvent_ok hdec]

end Sys2Proof.Machine
end

section
/-! PROOFS. What one operation can do to the state (41_rxbuf.md, 40_link.md, 44_decoder.md, 45_fields.md): one inversion
lemma for `exec`, and the induction over steps that every invariant uses. -/

namespace Sys2Proof.Machine

/-! ## The changes of an operation -/

/-- `t` agrees with `s` in every element but `timeout_ms`, `dtr`, `crc_acc`, the refusal mark, the result records and the
world outside: in all that the invariants of 10_state.md speak of, and in the histories. -/
structure SameUnits (s t : State) : Prop where
  params : t.params = s.params
  linkOpen : t.linkOpen = s.linkOpen
  cfg : t.cfg = s.cfg
  rx : t.rx = s.rx
  dec : t.dec = s.dec
  res : t.res = s.res
  fldCursor : t.fldCursor = s.fldCursor
  fault : t.fault = s.fault
  txHist : t.txHist = s.txHist
  dtrHist : t.dtrHist = s.dtrHist
  pend : t.pend = s.pend

/-- What an operation can do to those elements. Each change belongs to its operation, but for three: to change none of
them, to fault, and to advance the field cursor. -/
inductive Change : Instr → State → State → Prop
  | none (i : Instr) (s : State) : Change i s s
  | faulted (i : Instr) (s : State) (k : Fault) : Change i s (recordFault k s)
  | opened {baud : Word32} {parity databits stop : Byte} (s : State)
      (legal : legalConfig baud parity databits stop = true) :
      Change (.linkOpen baud parity databits stop) s (openSuccess baud parity stop s)
  | closed (s : State) : Change .linkClose s { s with linkOpen := false, rx := { s.rx with line := [] } }
  | sent (bytes sent : List Byte) (s : State) : Change (.linkWrite bytes) s { s with txHist := s.txHist ++ sent }
  | pulsed (s : State) : Change .linkPulseReset s (driveDtr true (driveDtr false s))
  | consumed (s : State) (pending : s.rx.first < s.rx.last) :
      Change .rxReadOne s { s with rx := consumeRx s.rx, pend := .none }
  | held (s : State) (isOpen : s.linkOpen = true) : Change .rxReadOne s { s with pend := .readOne }
  | timedOut (s : State) : Change .evtTimer s { s with pend := .none }
  | cleared (s : State) : Change .rxClear s { s with rx := { s.rx with first := 0, last := 0 } }
  | delivered (b : Byte) (s : State) (enabled : readerEnabled b s = true) :
      Change (.evtRxDeliver b) s (appendRx b { s with rx := { s.rx with line := s.rx.line.tail } })
  | decoderReset (s : State) : Change .decReset s (resetDecoder s)
  | fed (b : Byte) (s : State) : Change (.decFeed b) s (feed b s).1
  | advanced (i : Instr) (s : State) (w : Nat) (inData : s.fldCursor.toNat + w ≤ (responseData s.res).length) :
      Change i s { s with fldCursor := s.fldCursor + BitVec.ofNat 8 w }

/-- An operation that ends in `t` did one of the changes, and nothing more to those elements. -/
def Changed (i : Instr) (s t : State) : Prop := ∃ u, Change i s u ∧ SameUnits u t

theorem SameUnits.refl (s : State) : SameUnits s s := ⟨rfl, rfl, rfl, rfl, rfl, rfl, rfl, rfl, rfl, rfl, rfl⟩

theorem sameUnits_outside (s : State) (o : Outside) : SameUnits s { s with outside := o } :=
  ⟨rfl, rfl, rfl, rfl, rfl, rfl, rfl, rfl, rfl, rfl, rfl⟩

theorem sameUnits_refused (s : State) (r : Bool) (o : Outside) : SameUnits s { s with refused := r, outside := o } :=
  ⟨rfl, rfl, rfl, rfl, rfl, rfl, rfl, rfl, rfl, rfl, rfl⟩

theorem sameUnits_timeoutMs (s : State) (ms : Word32) : SameUnits s { s with timeoutMs := ms } :=
  ⟨rfl, rfl, rfl, rfl, rfl, rfl, rfl, rfl, rfl, rfl, rfl⟩

theorem sameUnits_crcAcc (s : State) (acc : Byte) : SameUnits s { s with crcAcc := acc } :=
  ⟨rfl, rfl, rfl, rfl, rfl, rfl, rfl, rfl, rfl, rfl, rfl⟩

theorem sameUnits_drawDtr (s : State) : SameUnits s (drawDtr s) :=
  ⟨rfl, rfl, rfl, rfl, rfl, rfl, rfl, rfl, rfl, rfl, rfl⟩

/-! ## The shared operations in these terms -/

/-- Completing returns a record and changes none of the elements: what was changed before it is the whole change. -/
theorem changed_of_complete {i : Instr} {s u v t : State} {st : Status} {x : Value} (hc : Change i s u)
    (hu : SameUnits u v) (h : complete st x v = .next t) : Changed i s t := by
  obtain rfl := (complete_next_iff st x v t).mp h
  exact ⟨u, hc, hu.params, hu.linkOpen, hu.cfg, hu.rx, hu.dec, hu.res, hu.fldCursor, hu.fault, hu.txHist, hu.dtrHist,
    hu.pend⟩

theorem changed_of_faulted (i : Instr) (s : State) (k : Fault) :
    Changed i s { s with fault := addFault k s.fault } :=
  ⟨_, .faulted i s k, .refl _⟩

/-- On a closed line the guard faults; on an open one the rest of the operation decides. -/
theorem changed_of_requireOpen {i : Instr} {s t : State} {rest : StepOutcome}
    (hrest : s.linkOpen = true → rest = .next t → Changed i s t) (h : requireOpen s rest = .next t) :
    Changed i s t := by
  rcases requireOpen_next s t rest h with ⟨ho, hr⟩ | ⟨-, rfl⟩
  · exact hrest ho hr
  · exact changed_of_faulted i s .notOpen

theorem changed_of_putField {i : Instr} {s t : State} {w : Nat} {v : Int} (h : putField w v s = .next t) :
    Changed i s t :=
  changed_of_complete (.none i s) (.refl s) h

theorem changed_of_getField {i : Instr} {s t : State} {w : Nat} {signed : Bool}
    (h : getField w signed s = .next t) : Changed i s t := by
  rcases getField_next w signed s t h with ⟨-, inData, rfl⟩ | ⟨-, -, rfl⟩ | ⟨-, rfl⟩
  · exact ⟨_, .advanced i s w inData, rfl, rfl, rfl, rfl, rfl, rfl, rfl, rfl, rfl, rfl, rfl⟩
  · exact changed_of_faulted i s .fieldUnderrun
  · exact changed_of_faulted i s .noFrame

/-! ## The operations with more than one way to end -/

theorem changed_of_linkOpen {baud : Word32} {parity databits stop : Byte} {s t : State}
    (h : execLinkOpen baud parity databits stop s = .next t) :
    Changed (.linkOpen baud parity databits stop) s t := by
  rcases execLinkOpen_next baud parity databits stop s t h with
    ⟨-, rfl⟩ | ⟨-, -, rfl⟩ | ⟨-, -, -, rfl⟩ | ⟨-, legal, -, rfl⟩
  · exact changed_of_faulted _ s .doubleOpen
  · exact ⟨s, .none _ s, rfl, rfl, rfl, rfl, rfl, rfl, rfl, rfl, rfl, rfl, rfl⟩
  · exact ⟨s, .none _ s, rfl, rfl, rfl, rfl, rfl, rfl, rfl, rfl, rfl, rfl, rfl⟩
  · exact ⟨_, .opened s legal, rfl, rfl, rfl, rfl, rfl, rfl, rfl, rfl, rfl, rfl, rfl⟩

theorem changed_of_linkWrite {bytes : List Byte} {s t : State} (h : execLinkWrite bytes s = .next t) :
    Changed (.linkWrite bytes) s t := by
  refine changed_of_requireOpen (fun isOpen _ => ?_) h
  rw [execLinkWrite_eq bytes s isOpen] at h
  cases h
  exact ⟨_, .sent bytes (sentBytes bytes (drawWrite s).1) s, rfl, rfl, rfl, rfl, rfl, rfl, rfl, rfl, rfl, rfl, rfl⟩

theorem changed_of_linkClose {s t : State} (h : execLinkClose s = .next t) : Changed .linkClose s t := by
  unfold execLinkClose at h
  split at h
  · exact changed_of_complete (.closed s) (sameUnits_drawDtr _) h
  · exact changed_of_complete (.none _ s) (.refl s) h

theorem changed_of_rxReadOne {s t : State} (h : execRxReadOne s = .next t) : Changed .rxReadOne s t := by
  refine changed_of_requireOpen (fun isOpen hr => ?_) h
  split at hr
  · exact changed_of_complete (.consumed s ‹_›) (.refl _) hr
  · cases hr
    exact ⟨_, .held s isOpen, .refl _⟩

theorem changed_of_evtRxDeliver {b : Byte} {s t : State} (h : execEvtRxDeliver b s = .next t) :
    Changed (.evtRxDeliver b) s t := by
  unfold execEvtRxDeliver at h
  split at h <;> cases h
  · exact ⟨_, .delivered b s ‹_›, .refl _⟩
  · exact ⟨_, .none _ _, .refl _⟩

theorem changed_of_evtTimer {s t : State} (h : execEvtTimer s = .next t) : Changed .evtTimer s t := by
  unfold execEvtTimer at h
  split at h
  · exact changed_of_complete (.timedOut s) (.refl _) h
  · cases h
    exact ⟨_, .none _ _, .refl _⟩

/-- What an operation can do: its own change, a fault, or nothing to those elements. -/
theorem exec_changed (i : Instr) (s t : State) (h : exec i s = .next t) : Changed i s t := by
  cases i with
  | linkOpen baud parity databits stop => exact changed_of_linkOpen h
  | linkWrite bytes => exact changed_of_linkWrite h
  | linkSetTimeout ms =>
    exact changed_of_requireOpen (fun _ => changed_of_complete (.none _ s) (sameUnits_timeoutMs s ms)) h
  | linkPulseReset => exact changed_of_requireOpen (fun _ => changed_of_complete (.pulsed s) (.refl _)) h
  | linkClose => exact changed_of_linkClose h
  | rxReadOne => exact changed_of_rxReadOne h
  | rxAvailable => exact changed_of_requireOpen (fun _ => changed_of_complete (.none _ s) (.refl s)) h
  | rxClear => exact changed_of_requireOpen (fun _ => changed_of_complete (.cleared s) (.refl _)) h
  | encode len payload => exact changed_of_complete (.none _ s) (.refl s) h
  | crcClear => exact changed_of_complete (.none _ s) (sameUnits_crcAcc s _) h
  | crcStep b => exact changed_of_complete (.none _ s) (sameUnits_crcAcc s _) h
  | crcRead => exact changed_of_complete (.none _ s) (.refl s) h
  | decReset => exact changed_of_complete (.decoderReset s) (.refl _) h
  | decFeed b => exact changed_of_complete (.fed b s) (.refl _) h
  | decResult => exact changed_of_complete (.none _ s) (.refl s) h
  | putU8 v | putI8 v | putU16 v | putI16 v | putU32 v | putI32 v => exact changed_of_putField h
  | getU8 | getI8 | getU16 | getI16 | getU32 | getI32 => exact changed_of_getField h
  | evtRxDeliver b => exact changed_of_evtRxDeliver h
  | evtTimer => exact changed_of_evtTimer h

/-! ## The induction over steps -/

/-- A property of those elements that every change and every byte of ENV keeps. A change happens in a state without a
fault, and a line is closed only while no read holds (10_state.md R35). -/
structure Kept (P : State → Prop) : Prop where
  same : ∀ s t, SameUnits s t → P s → P t
  change : ∀ i s t, s.fault = [] → (i = .linkClose → s.pend = .none) → Change i s t → P s → P t
  envReceive : ∀ b s, P s → P (envReceive b s)

theorem Kept.exec {P : State → Prop} (hP : Kept P) {i : Instr} {s t : State} (hfault : s.fault = [])
    (hclose : i = .linkClose → s.pend = .none) (h : exec i s = .next t) (hs : P s) : P t := by
  obtain ⟨u, hchange, hsame⟩ := exec_changed i s t h
  exact hP.same u t hsame (hP.change i s u hfault hclose hchange hs)

/-- Whoever's turn it is: a closing LINK_CLOSE is the client's, and the client issues nothing while a read holds. -/
theorem Kept.takeTurn {P : State → Prop} (hP : Kept P) {turn : Turn} {s t : State} (hfault : s.fault = [])
    (h : takeTurn turn s = .next t) (hs : P s) : P t := by
  rcases takeTurn_next turn s t h with
    ⟨-, hexec⟩ | ⟨i, hevent, hexec⟩ | ⟨hpend, i, ts, hexec⟩ | ⟨ts, rfl⟩ | ⟨b, rfl⟩ | rfl
  · exact hP.exec hfault (by simp) hexec hs
  · exact hP.exec hfault (by rintro rfl; cases hevent) hexec hs
  · exact hP.exec (s := { s with outside := { s.outside with program := ts } }) hfault (fun _ => hpend) hexec
      (hP.same s _ (sameUnits_outside s _) hs)
  · exact hP.same s _ (sameUnits_refused s true _) hs
  · exact hP.envReceive b s hs
  · exact hs

theorem Kept.step {P : State → Prop} (hP : Kept P) {s t : State} (h : step s = .next t) (hs : P s) : P t := by
  obtain ⟨⟨hfault, -⟩, ⟨-, rfl⟩ | ⟨turn, rest, -, hturn⟩⟩ := step_next s t h
  · exact hs
  · exact hP.takeTurn (s := { s with outside := { s.outside with schedule := rest } }) hfault hturn
      (hP.same s _ (sameUnits_outside s _) hs)

end Sys2Proof.Machine
end

section
/-! PROOFS. The receive buffer (10_state.md R23, R24, 41_rxbuf.md R77 to R81): its bounds, its rewound cursors and its
storage under every change. -/

namespace Sys2Proof.Machine

/-! ## What the buffer's invariants depend on: the parameters and `rx`, but not the line queue -/

theorem RxBounds.congr {s t : State} (h : RxBounds s) (hp : t.params = s.params)
    (hrx : ∃ line, t.rx = { s.rx with line := line }) : RxBounds t := by
  obtain ⟨line, hrx⟩ := hrx
  constructor <;> rw [hrx]
  · exact h.first_le_last
  · exact h.last_le_cap
  · rw [hp]; exact h.cap_le_max
  · rw [hp]; exact h.cap_doubled

theorem RxStored.congr {s t : State} (h : RxStored s) (hrx : ∃ line, t.rx = { s.rx with line := line }) :
    RxStored t := by
  obtain ⟨line, hrx⟩ := hrx
  constructor <;> rw [hrx]
  · exact h.canonical
  · exact h.within
  · exact h.pendingListed

/-- An emptied buffer is rewound to index 0 (41_rxbuf.md R78, D9). -/
def Rewound (s : State) : Prop := s.rx.first = s.rx.last → s.rx.first = 0

theorem Rewound.congr {s t : State} (h : Rewound s) (hrx : ∃ line, t.rx = { s.rx with line := line }) : Rewound t := by
  obtain ⟨line, hrx⟩ := hrx
  unfold Rewound
  rw [hrx]
  exact h

/-- ENV's byte joins the line queue and nothing else (R76). -/
theorem envReceive_rx (b : Byte) (s : State) : ∃ line, (envReceive b s).rx = { s.rx with line := line } := by
  unfold envReceive
  split <;> exact ⟨_, rfl⟩

/-! ## The buffer of a fresh link, and of reset (R36, 40_link.md R70) -/

theorem initCap_le_maxCap (p : Params) : p.initCap ≤ p.maxCap := Nat.le_mul_of_pos_right _ (Nat.two_pow_pos _)

theorem rxBounds_of_fresh {s : State} (h : s.rx = ⟨[], s.params.initCap, 0, 0, []⟩) : RxBounds s := by
  constructor <;> rw [h]
  · exact Nat.zero_le _
  · exact initCap_le_maxCap s.params
  · exact ⟨0, by simp⟩

theorem rxStored_of_fresh {s : State} (h : s.rx = ⟨[], s.params.initCap, 0, 0, []⟩) : RxStored s := by
  constructor <;> rw [h]
  · exact wf_nil
  · exact fun _ _ => rfl
  · exact fun _ _ hlt => absurd hlt (Nat.not_lt_zero _)

/-! ## Appending a byte (R77) -/

/-- A capacity below the bound can double: both are the initial one times a power of two. -/
theorem double_le_of_lt {c j k : Nat} (h : c * 2 ^ j < c * 2 ^ k) : 2 * (c * 2 ^ j) ≤ c * 2 ^ k := by
  have hjk : j < k := (Nat.pow_lt_pow_iff_right (by omega)).mp (Nat.lt_of_mul_lt_mul_left h)
  calc 2 * (c * 2 ^ j)
    _ = c * 2 ^ (j + 1) := by ring
    _ ≤ c * 2 ^ k := Nat.mul_le_mul_left c (Nat.pow_le_pow_right (by omega) hjk)

/-- A capacity that may still grow is not 0: with an initial capacity of 0 the bound would be 0 too. -/
theorem cap_pos_of_lt_maxCap {s : State} (h : RxBounds s) (hlt : s.rx.cap < s.params.maxCap) : 0 < s.rx.cap := by
  obtain ⟨j, hcap⟩ := h.cap_doubled
  rw [hcap]
  exact Nat.mul_pos (Nat.pos_of_mul_pos_right (Nat.zero_lt_of_lt hlt)) (Nat.two_pow_pos j)

theorem appendRx_keeps_bounds (b : Byte) {s : State} (h : RxBounds s) : RxBounds (appendRx b s) := by
  have hpos := cap_pos_of_lt_maxCap h
  obtain ⟨hfirst, hlast, hmax, j, hcap⟩ := h
  rcases appendRx_cases b s with ⟨hroom, e⟩ | ⟨hfull, hlt, e⟩ | ⟨-, -, e⟩ <;> rw [e]
  case inl =>
    exact ⟨Nat.le_succ_of_le hfirst, Nat.lt_of_le_of_ne hlast hroom, hmax, j, hcap⟩
  case inr.inl =>
    have hdouble : 2 * s.rx.cap ≤ s.params.maxCap := by
      rw [hcap] at hlt ⊢
      exact double_le_of_lt hlt
    refine ⟨Nat.le_succ_of_le hfirst, ?_, hdouble, j + 1, ?_⟩
    · show s.rx.last + 1 ≤ 2 * s.rx.cap
      have := hpos hlt
      omega
    · show 2 * s.rx.cap = _
      rw [hcap]
      ring
  case inr.inr => exact ⟨hfirst, hlast, hmax, j, hcap⟩

theorem appendRx_keeps_rewound (b : Byte) {s : State} (hb : RxBounds s) (h : Rewound s) : Rewound (appendRx b s) := by
  have hfirst := hb.first_le_last
  rcases appendRx_cases b s with ⟨-, e⟩ | ⟨-, -, e⟩ | ⟨-, -, e⟩ <;> rw [e]
  case inr.inr => exact h
  all_goals
    intro (heq : s.rx.first = s.rx.last + 1)
    omega

/-- Writing at `rx_last` a byte that is from then on pending, within a capacity that has room for it. -/
theorem storedWrite {m : Memory} {first last cap cap' : Nat} (b : Byte) (hroom : last < cap') (hcap : cap ≤ cap')
    (within : ∀ a, cap ≤ a → m.listed a = none)
    (pending : ∀ a, first ≤ a → a < last → (m.listed a).isSome = true) :
    (∀ a, cap' ≤ a → (m.write last b).listed a = none)
      ∧ ∀ a, first ≤ a → a < last + 1 → ((m.write last b).listed a).isSome = true := by
  refine ⟨fun a ha => ?_, fun a hle hlt => ?_⟩
  · rw [listed_write, if_neg (by omega)]
    exact within a (by omega)
  · rw [listed_write]
    by_cases ha : a = last
    · simp [ha]
    · rw [if_neg ha]
      exact pending a hle (by omega)

theorem appendRx_keeps_stored (b : Byte) {s : State} (hb : RxBounds s) (h : RxStored s) :
    RxStored (appendRx b s) := by
  have hlast := hb.last_le_cap
  have hcanonical := wf_write s.rx.buf s.rx.last b h.canonical
  rcases appendRx_cases b s with ⟨hroom, e⟩ | ⟨hfull, hlt, e⟩ | ⟨-, -, e⟩
  case inl =>
    obtain ⟨within, pending⟩ := storedWrite b (by omega) (Nat.le_refl s.rx.cap) h.within h.pendingListed
    rw [e]
    exact ⟨hcanonical, within, pending⟩
  case inr.inl =>
    have hpos := cap_pos_of_lt_maxCap hb hlt
    obtain ⟨within, pending⟩ :=
      storedWrite b (cap' := 2 * s.rx.cap) (by omega) (by omega) h.within h.pendingListed
    rw [e]
    exact ⟨hcanonical, within, pending⟩
  case inr.inr =>
    rw [e]
    exact h.congr ⟨_, rfl⟩

/-! ## Consuming a byte (R78) -/

theorem consumeRx_keeps_bounds {s : State} {p : Pend} (hpending : s.rx.first < s.rx.last) (h : RxBounds s) :
    RxBounds { s with rx := consumeRx s.rx, pend := p } := by
  have hlast := h.last_le_cap
  rw [consumeRx_eq]
  refine ⟨?_, ?_, h.cap_le_max, h.cap_doubled⟩ <;> dsimp only <;> split <;> omega

theorem consumeRx_keeps_rewound (s : State) (p : Pend) : Rewound { s with rx := consumeRx s.rx, pend := p } := by
  unfold Rewound
  rw [consumeRx_eq]
  dsimp only
  split <;> omega

theorem consumeRx_keeps_stored {s : State} {p : Pend} (h : RxStored s) :
    RxStored { s with rx := consumeRx s.rx, pend := p } := by
  rw [consumeRx_eq]
  refine ⟨h.canonical, h.within, fun a hle hlt => ?_⟩
  dsimp only at hle hlt ⊢
  split at hlt
  · omega
  · rename_i hmore
    rw [if_neg hmore] at hle
    exact h.pendingListed a (by omega) hlt

/-! ## Every change -/

/-- No operation changes the implementation parameters (00_scope.md R7). -/
theorem Change.params_eq {i : Instr} {s t : State} (h : Change i s t) : t.params = s.params := by
  cases h <;> simp

theorem Change.keeps_bounds {i : Instr} {s t : State} (h : Change i s t) (hs : RxBounds s) : RxBounds t := by
  cases h with
  | opened => exact rxBounds_of_fresh rfl
  | consumed _ pending => exact consumeRx_keeps_bounds pending hs
  | cleared => exact ⟨Nat.le_refl 0, Nat.zero_le _, hs.cap_le_max, hs.cap_doubled⟩
  | delivered b => exact appendRx_keeps_bounds b (hs.congr rfl ⟨_, rfl⟩)
  | fed b => exact hs.congr (feed_params b s) ⟨_, feed_rx b s⟩
  | _ => exact hs.congr rfl ⟨_, rfl⟩

theorem Change.keeps_rewound {i : Instr} {s t : State} (h : Change i s t) (hb : RxBounds s) (hs : Rewound s) :
    Rewound t := by
  cases h with
  | opened => exact fun _ => rfl
  | consumed _ pending => exact consumeRx_keeps_rewound s .none
  | cleared => exact fun _ => rfl
  | delivered b => exact appendRx_keeps_rewound b (hb.congr rfl ⟨_, rfl⟩) (hs.congr ⟨_, rfl⟩)
  | fed b => exact hs.congr ⟨_, feed_rx b s⟩
  | _ => exact hs.congr ⟨_, rfl⟩

theorem Change.keeps_stored {i : Instr} {s t : State} (h : Change i s t) (hb : RxBounds s) (hs : RxStored s) :
    RxStored t := by
  cases h with
  | opened => exact rxStored_of_fresh rfl
  | consumed _ pending => exact consumeRx_keeps_stored hs
  | cleared => exact ⟨hs.canonical, hs.within, fun _ _ hlt => absurd hlt (Nat.not_lt_zero _)⟩
  | delivered b => exact appendRx_keeps_stored b (hb.congr rfl ⟨_, rfl⟩) (hs.congr ⟨_, rfl⟩)
  | fed b => exact hs.congr ⟨_, feed_rx b s⟩
  | _ => exact hs.congr ⟨_, rfl⟩

/-! ## The statement -/

theorem rxBounds_kept : Kept RxBounds where
  same _ _ hst hs := hs.congr hst.params ⟨_, hst.rx⟩
  change _ _ _ _ _ hc hs := hc.keeps_bounds hs
  envReceive b s hs := hs.congr (envReceive_params b s) (envReceive_rx b s)

/-- Settles O15: the buffer of reset is a fresh one, and every change keeps the bounds. Appending is the case that turns
on something: a full buffer doubles only below RXBUF_MAX_CAP, which is the same capacity times a power of two. -/
theorem everyStepKeepsTheBufferBounds : Obligations.EveryStepKeepsTheBufferBounds :=
  ⟨rxBounds_of_fresh rfl, fun _ _ hs h => rxBounds_kept.step h hs⟩

end Sys2Proof.Machine
end

section
/-! PROOFS. The decoder, the result registers and the link under every change (44_decoder.md R93, R94, 45_fields.md R100,
10_state.md R20, R29, R30, R35), and the invariants of the whole block. -/

namespace Sys2Proof.Machine

/-! ## DEC_FEED, state by state (44_decoder.md R93) -/

theorem feed_of_awaitStart {s : State} (b : Byte) (h : s.dec.state = .awaitStart) :
    feed b s = if b = Config.start then
        ({ s with dec := { s.dec with state := .awaitLength, work := [], crc := Config.crcSeed } }, false)
      else (s, false) := by
  unfold feed
  rw [h]

theorem feed_of_awaitLength {s : State} (b : Byte) (h : s.dec.state = .awaitLength) :
    feed b s = if b = 0 then ({ s with dec := { s.dec with state := .awaitCrc, len := b } }, false)
      else ({ s with dec := { s.dec with state := .inPayload, len := b, rem := b } }, false) := by
  unfold feed
  rw [h]

theorem feed_of_inPayload {s : State} (b : Byte) (h : s.dec.state = .inPayload) :
    feed b s =
      ({ s with
          dec :=
            { s.dec with
              state := if s.dec.rem - 1 = 0 then .awaitCrc else .inPayload
              rem := s.dec.rem - 1
              work := s.dec.work ++ [b]
              crc := crc8Byte s.dec.crc b } }, false) := by
  unfold feed
  rw [h]

theorem feed_of_awaitCrc {s : State} (b : Byte) (h : s.dec.state = .awaitCrc) :
    feed b s = ({ s with dec := .fresh, res := latch s.dec b, fldCursor := 0 }, true) := by
  unfold feed
  rw [h]

/-- Before its last byte a frame leaves the result registers and the field cursor alone. -/
theorem feed_keeps_result_of_ne_awaitCrc {s : State} (b : Byte) (h : s.dec.state ≠ .awaitCrc) :
    (feed b s).1.res = s.res ∧ (feed b s).1.fldCursor = s.fldCursor := by
  cases hd : s.dec.state with
  | awaitStart => rw [feed_of_awaitStart b hd]; split <;> exact ⟨rfl, rfl⟩
  | awaitLength => rw [feed_of_awaitLength b hd]; split <;> exact ⟨rfl, rfl⟩
  | inPayload => rw [feed_of_inPayload b hd]; exact ⟨rfl, rfl⟩
  | awaitCrc => exact absurd hd h

/-! ## The decoder invariants (R94) -/

theorem decoderInv_fresh : DecoderInv DecUnit.fresh where
  crc_of_work := rfl
  idle_empty _ := rfl
  in_payload := nofun
  in_crc := nofun

theorem crc8_append_singleton (l : List Byte) (b : Byte) : crc8 (l ++ [b]) = crc8Byte (crc8 l) b :=
  List.foldl_append

/-- One payload byte of R93: the work grows by it, and as many bytes as before are still to come in all. -/
theorem decoderInv_payloadByte {d : DecUnit} (b : Byte) (hcrc : d.crc = crc8 d.work) (hrem : 1 ≤ d.rem.toNat)
    (hlen : d.work.length + d.rem.toNat = d.len.toNat) :
    DecoderInv
      { d with
        state := if d.rem - 1 = 0 then .awaitCrc else .inPayload
        rem := d.rem - 1
        work := d.work ++ [b]
        crc := crc8Byte d.crc b } := by
  have hsub : (d.rem - 1).toNat = d.rem.toNat - 1 := BitVec.toNat_sub_of_le (BitVec.le_def.mpr hrem)
  have hwork : (d.work ++ [b]).length = d.work.length + 1 := List.length_append
  have hzero : d.rem - 1 = 0 ↔ d.rem.toNat - 1 = 0 := by rw [← hsub]; exact BitVec.toNat_eq
  refine ⟨by rw [crc8_append_singleton, ← hcrc], fun h => ?_, fun h => ?_, fun h => ?_⟩ <;> dsimp only at h ⊢
  · split at h <;> simp at h
  · split at h
    · cases h
    · rename_i hmore
      rw [hzero] at hmore
      omega
  · split at h
    · rename_i hlast
      rw [hzero] at hlast
      omega
    · cases h

theorem feed_keeps_decoder (b : Byte) {s : State} (h : DecoderInv s.dec) : DecoderInv (feed b s).1.dec := by
  cases hd : s.dec.state with
  | awaitStart =>
    rw [feed_of_awaitStart b hd]
    split
    · exact ⟨rfl, fun _ => rfl, nofun, nofun⟩
    · exact h
  | awaitLength =>
    have hwork : s.dec.work = [] := h.idle_empty (.inr hd)
    rw [feed_of_awaitLength b hd]
    split
    · rename_i hb
      refine ⟨h.crc_of_work, fun _ => hwork, nofun, fun _ => ?_⟩
      simp [hwork, hb]
    · rename_i hb
      have hpos : b.toNat ≠ 0 := fun e => hb (BitVec.eq_of_toNat_eq e)
      refine ⟨h.crc_of_work, fun _ => hwork, fun _ => ⟨by dsimp only; omega, ?_⟩, nofun⟩
      simp [hwork]
  | inPayload =>
    obtain ⟨hrem, hlen⟩ := h.in_payload hd
    rw [feed_of_inPayload b hd]
    exact decoderInv_payloadByte b h.crc_of_work hrem hlen
  | awaitCrc =>
    rw [feed_of_awaitCrc b hd]
    exact decoderInv_fresh

theorem Change.keeps_decoder {i : Instr} {s t : State} (h : Change i s t) (hs : DecoderInv s.dec) :
    DecoderInv t.dec := by
  cases h with
  | decoderReset => exact decoderInv_fresh
  | fed b => exact feed_keeps_decoder b hs
  | delivered b => rw [appendRx_dec]; exact hs
  | _ => exact hs

/-! ## The result registers and the field cursor -/

theorem ResultInv.congr {s t : State} (h : ResultInv s) (hres : t.res = s.res) (hcursor : t.fldCursor = s.fldCursor) :
    ResultInv t := by
  constructor <;> rw [hres]
  · exact h.payload_short
  · exact h.only_good
  · rw [hcursor]; exact h.cursor_in_data

/-- Newly latched results, with the cursor at 0 (R93), keep the relations if they hold of the registers alone. -/
theorem resultInv_of_cursor_zero {s : State} (hcursor : s.fldCursor = 0) (hshort : s.res.payload.length ≤ 255)
    (hgood : s.res.status ≠ .frameOk → s.res.payload = []) : ResultInv s :=
  ⟨hshort, hgood, by rw [hcursor]; exact Nat.zero_le _⟩

theorem latch_payload_length_le (d : DecUnit) (b : Byte) : (latch d b).payload.length ≤ d.work.length := by
  unfold latch
  split
  · exact Nat.le_refl _
  · exact Nat.zero_le _

theorem latch_payload_of_not_ok {d : DecUnit} {b : Byte} (h : (latch d b).status ≠ .frameOk) :
    (latch d b).payload = [] := by
  unfold latch at h ⊢
  split
  · rename_i hb
    rw [if_pos hb] at h
    exact absurd rfl h
  · rfl

/-- A frame's payload fits LEN, which is a byte. -/
theorem feed_keeps_result (b : Byte) {s : State} (hdec : DecoderInv s.dec) (h : ResultInv s) :
    ResultInv (feed b s).1 := by
  by_cases hd : s.dec.state = .awaitCrc
  · have hlen := hdec.in_crc hd
    have hbyte := s.dec.len.isLt
    have hlatch := latch_payload_length_le s.dec b
    rw [feed_of_awaitCrc b hd]
    exact resultInv_of_cursor_zero rfl (by dsimp only; omega) latch_payload_of_not_ok
  · obtain ⟨hres, hcursor⟩ := feed_keeps_result_of_ne_awaitCrc b hd
    exact h.congr hres hcursor

/-- A GET that stays in the response data moves the cursor without wrapping: the data are at most 255 bytes. -/
theorem advance_keeps_result {s : State} {w : Nat} (h : ResultInv s)
    (hw : s.fldCursor.toNat + w ≤ (responseData s.res).length) :
    ResultInv { s with fldCursor := s.fldCursor + BitVec.ofNat 8 w } := by
  refine ⟨h.payload_short, h.only_good, ?_⟩
  have hdata : (responseData s.res).length ≤ 255 := by
    have := h.payload_short
    rw [responseData, List.length_drop]
    omega
  rw [BitVec.toNat_add, BitVec.toNat_ofNat]
  dsimp only
  omega

theorem Change.keeps_result {i : Instr} {s t : State} (h : Change i s t) (hdec : DecoderInv s.dec)
    (hs : ResultInv s) : ResultInv t := by
  cases h with
  | decoderReset => exact resultInv_of_cursor_zero rfl (Nat.zero_le _) fun _ => rfl
  | fed b => exact feed_keeps_result b hdec hs
  | advanced _ _ w inData => exact advance_keeps_result hs inData
  | delivered b => exact hs.congr (appendRx_res b _) (appendRx_fldCursor b _)
  | _ => exact hs.congr rfl rfl

/-! ## The link -/

theorem LinkInv.congr {s t : State} (h : LinkInv s) (hopen : t.linkOpen = s.linkOpen) (hcfg : t.cfg = s.cfg)
    (hline : t.rx.line = s.rx.line) (hpend : t.pend = .readOne → s.pend = .readOne) : LinkInv t := by
  constructor <;> simp only [hopen, hcfg, hline]
  · exact h.databits_eight
  · exact h.open_legal
  · exact h.closed_empty
  · exact fun hp => h.held_open (hpend hp)

/-- On an open line the queue may hold anything, and a read may hold. -/
theorem LinkInv.of_open {s t : State} (h : LinkInv s) (hs : s.linkOpen = true) (hopen : t.linkOpen = s.linkOpen)
    (hcfg : t.cfg = s.cfg) : LinkInv t := by
  have ht : t.linkOpen = true := hopen.trans hs
  constructor
  · rw [hcfg]; exact h.databits_eight
  · rw [hcfg]; exact fun _ => h.open_legal hs
  · rw [ht]; exact nofun
  · exact fun _ => ht

/-- What LINK_OPEN's check lets through is legal in the narrower fields of `cfg` too (40_link.md R69, R70). -/
theorem openSuccess_linkInv {baud : Word32} {parity databits stop : Byte} (s : State)
    (legal : legalConfig baud parity databits stop = true) : LinkInv (openSuccess baud parity stop s) := by
  obtain ⟨-, hparity, hstop, hbaud⟩ := (legalConfig_iff baud parity databits stop).mp legal
  refine ⟨rfl, fun _ => ⟨hbaud, ?_, ?_⟩, fun _ => rfl, fun _ => rfl⟩
  · show (parity.setWidth 2).toNat ≤ 2
    rcases hparity with rfl | rfl | rfl <;> decide
  · show stop.setWidth 3 = 2 ∨ stop.setWidth 3 = 3 ∨ stop.setWidth 3 = 4
    rcases hstop with rfl | rfl | rfl <;> decide

theorem closed_linkInv {s : State} (h : LinkInv s) (hpend : s.pend = .none) :
    LinkInv { s with linkOpen := false, rx := { s.rx with line := [] } } where
  databits_eight := h.databits_eight
  open_legal := nofun
  closed_empty _ := rfl
  held_open hheld := by cases hpend.symm.trans hheld

theorem envReceive_keeps_link (b : Byte) {s : State} (h : LinkInv s) : LinkInv (envReceive b s) := by
  by_cases hs : s.linkOpen = true
  · exact h.of_open hs (envReceive_linkOpen b s) (envReceive_cfg b s)
  · rw [envReceive, if_neg hs]
    exact h

theorem Change.keeps_link {i : Instr} {s t : State} (h : Change i s t) (hclose : i = .linkClose → s.pend = .none)
    (hs : LinkInv s) : LinkInv t := by
  cases h with
  | opened _ legal => exact openSuccess_linkInv s legal
  | closed => exact closed_linkInv hs (hclose rfl)
  | held _ isOpen => exact hs.of_open isOpen rfl rfl
  | delivered b _ enabled =>
    have hopen := ((readerEnabled_iff b s).mp enabled).1
    exact hs.of_open hopen (appendRx_linkOpen b _) (appendRx_cfg b _)
  | consumed => exact hs.congr rfl rfl (by rw [consumeRx_eq]) nofun
  | timedOut => exact hs.congr rfl rfl rfl nofun
  | fed b =>
    exact hs.congr (feed_linkOpen b s) (feed_cfg b s) (by rw [feed_rx]) fun hp => (feed_pend b s).symm.trans hp
  | _ => exact hs.congr rfl rfl rfl id

/-! ## The fault set (60_exceptions.md R117, R123) -/

/-- A live block records at most one kind. -/
theorem addFault_length_le_one {f : List Fault} (k : Fault) (h : f = []) : (addFault k f).length ≤ 1 := by
  rw [h, addFault_nil]
  exact Nat.le_refl 1

theorem appendRx_fault_length_le_one (b : Byte) {s : State} (h : s.fault = []) : (appendRx b s).fault.length ≤ 1 := by
  rcases appendRx_cases b s with ⟨-, e⟩ | ⟨-, -, e⟩ | ⟨-, -, e⟩ <;> rw [e]
  case inr.inr => exact addFault_length_le_one .rxOverflow h
  all_goals simp [h]

theorem Change.fault_length_le_one {i : Instr} {s t : State} (h : Change i s t) (hs : s.fault = []) :
    t.fault.length ≤ 1 := by
  cases h with
  | faulted _ _ k => exact addFault_length_le_one k hs
  | delivered b => exact appendRx_fault_length_le_one b hs
  | _ => simp [hs]

/-! ## The statements -/

theorem Inv.congr {s t : State} (h : Inv s) (hst : SameUnits s t) : Inv t where
  capacity_positive := by rw [hst.params]; exact h.capacity_positive
  bounds := h.bounds.congr hst.params ⟨_, hst.rx⟩
  rewound := Rewound.congr h.rewound ⟨_, hst.rx⟩
  stored := h.stored.congr ⟨_, hst.rx⟩
  decoder := by rw [hst.dec]; exact h.decoder
  result := h.result.congr hst.res hst.fldCursor
  link := h.link.congr hst.linkOpen hst.cfg (by rw [hst.rx]) fun hp => hst.pend.symm.trans hp
  one_fault := by rw [hst.fault]; exact h.one_fault

theorem Change.keeps_inv {i : Instr} {s t : State} (h : Change i s t) (hfault : s.fault = [])
    (hclose : i = .linkClose → s.pend = .none) (hs : Inv s) : Inv t where
  capacity_positive := by rw [h.params_eq]; exact hs.capacity_positive
  bounds := h.keeps_bounds hs.bounds
  rewound := h.keeps_rewound hs.bounds hs.rewound
  stored := h.keeps_stored hs.bounds hs.stored
  decoder := h.keeps_decoder hs.decoder
  result := h.keeps_result hs.decoder hs.result
  link := h.keeps_link hclose hs.link
  one_fault := h.fault_length_le_one hfault

theorem envReceive_keeps_inv (b : Byte) {s : State} (h : Inv s) : Inv (envReceive b s) where
  capacity_positive := by rw [envReceive_params]; exact h.capacity_positive
  bounds := h.bounds.congr (envReceive_params b s) (envReceive_rx b s)
  rewound := Rewound.congr h.rewound (envReceive_rx b s)
  stored := h.stored.congr (envReceive_rx b s)
  decoder := by rw [envReceive_dec]; exact h.decoder
  result := h.result.congr (envReceive_res b s) (envReceive_fldCursor b s)
  link := envReceive_keeps_link b h.link
  one_fault := by rw [envReceive_fault]; exact h.one_fault

theorem inv_kept : Kept Inv where
  same _ _ hst hs := hs.congr hst
  change _ _ _ hfault hclose hc hs := hc.keeps_inv hfault hclose hs
  envReceive b _ hs := envReceive_keeps_inv b hs

/-- Settles O14: each unit's part of the invariant under each change, then the induction over steps. -/
theorem everyStepKeepsTheInvariants : Obligations.EveryStepKeepsTheInvariants :=
  fun _ _ hs h => inv_kept.step h hs

/-- Settles O13: reset leaves a fresh buffer, a fresh decoder and a closed line. -/
theorem invariantsHoldAtReset : Obligations.InvariantsHoldAtReset where
  capacity_positive := Nat.succ_le_succ (Nat.zero_le _)
  bounds := rxBounds_of_fresh rfl
  rewound _ := rfl
  stored := rxStored_of_fresh rfl
  decoder := decoderInv_fresh
  result := resultInv_of_cursor_zero rfl (Nat.zero_le _) fun _ => rfl
  link := ⟨rfl, nofun, fun _ => rfl, nofun⟩
  one_fault := Nat.zero_le 1

end Sys2Proof.Machine
end

section
/-! PROOFS. The histories and the result records (10_state.md R34): rules that move `withEarlier` past each shared
operation, then each operation by them. -/

namespace Sys2Proof.Machine

section Commutation

variable (tx : List Byte) (dtr : List Bool) (rs : List Result)

/-! ## One rule for each shared operation -/

theorem withEarlier_linkOpen (s : State) : (withEarlier tx dtr rs s).linkOpen = s.linkOpen := rfl

theorem mapNext_next (f : State → State) (s : State) : mapNext f (.next s) = .next (f s) := rfl

/-- A result record is appended at the end, so it commutes with what stands before the records. -/
theorem complete_withEarlier (st : Status) (v : Value) (s : State) :
    complete st v (withEarlier tx dtr rs s) = mapNext (withEarlier tx dtr rs) (complete st v s) := by
  simp only [complete, mapNext, answer, withEarlier, List.append_assoc]

theorem raise_withEarlier (k : Fault) (s : State) :
    raise k (withEarlier tx dtr rs s) = mapNext (withEarlier tx dtr rs) (raise k s) := rfl

theorem requireOpen_withEarlier {s : State} {rest rest' : StepOutcome}
    (h : rest' = mapNext (withEarlier tx dtr rs) rest) :
    requireOpen (withEarlier tx dtr rs s) rest' = mapNext (withEarlier tx dtr rs) (requireOpen s rest) := by
  cases hs : s.linkOpen with
  | true => rw [requireOpen_of_open s rest hs, requireOpen_of_open (withEarlier tx dtr rs s) rest' hs, h]
  | false =>
    rw [requireOpen_of_closed s rest hs, requireOpen_of_closed (withEarlier tx dtr rs s) rest' hs, raise_withEarlier]

/-- A draw reads only the world outside (00_scope.md R12). -/
theorem drawOpen_withEarlier (s : State) :
    drawOpen (withEarlier tx dtr rs s) = ((drawOpen s).1, withEarlier tx dtr rs (drawOpen s).2) := by
  unfold drawOpen withEarlier
  cases s.outside.openAnswers <;> rfl

theorem drawWrite_withEarlier (s : State) :
    drawWrite (withEarlier tx dtr rs s) = ((drawWrite s).1, withEarlier tx dtr rs (drawWrite s).2) := by
  unfold drawWrite withEarlier
  cases s.outside.writeAnswers <;> rfl

theorem appendTxHist_withEarlier (sent : List Byte) (s : State) :
    { withEarlier tx dtr rs s with txHist := (withEarlier tx dtr rs s).txHist ++ sent }
      = withEarlier tx dtr rs { s with txHist := s.txHist ++ sent } := by
  simp only [withEarlier, List.append_assoc]

theorem driveDtr_withEarlier (level : Bool) (s : State) :
    driveDtr level (withEarlier tx dtr rs s) = withEarlier tx dtr rs (driveDtr level s) := by
  simp only [driveDtr, withEarlier, List.append_assoc]

theorem feed_withEarlier (b : Byte) (s : State) :
    feed b (withEarlier tx dtr rs s) = (withEarlier tx dtr rs (feed b s).1, (feed b s).2) := by
  cases hd : s.dec.state with
  | awaitStart =>
    rw [feed_of_awaitStart b hd, feed_of_awaitStart (s := withEarlier tx dtr rs s) b hd]
    split <;> rfl
  | awaitLength =>
    rw [feed_of_awaitLength b hd, feed_of_awaitLength (s := withEarlier tx dtr rs s) b hd]
    split <;> rfl
  | inPayload =>
    rw [feed_of_inPayload b hd, feed_of_inPayload (s := withEarlier tx dtr rs s) b hd]
    rfl
  | awaitCrc =>
    rw [feed_of_awaitCrc b hd, feed_of_awaitCrc (s := withEarlier tx dtr rs s) b hd]
    rfl

theorem appendRx_withEarlier (b : Byte) (s : State) :
    appendRx b (withEarlier tx dtr rs s) = withEarlier tx dtr rs (appendRx b s) := by
  simp only [appendRx, apply_ite (withEarlier tx dtr rs)]
  rfl

theorem getField_withEarlier (w : Nat) (signed : Bool) (s : State) :
    getField w signed (withEarlier tx dtr rs s) = mapNext (withEarlier tx dtr rs) (getField w signed s) := by
  simp only [getField, apply_ite (mapNext (withEarlier tx dtr rs)), ← complete_withEarlier, ← raise_withEarlier]
  rfl

/-! ## The operations with more than one way to end -/

theorem execLinkOpen_withEarlier (baud : Word32) (parity databits stop : Byte) (s : State) :
    execLinkOpen baud parity databits stop (withEarlier tx dtr rs s)
      = mapNext (withEarlier tx dtr rs) (execLinkOpen baud parity databits stop s) := by
  have hdraw := drawOpen_withEarlier tx dtr rs s
  rcases hd : drawOpen s with ⟨answered, s'⟩
  rw [hd] at hdraw
  simp only [execLinkOpen, withEarlier_linkOpen, hdraw, hd]
  split
  · exact raise_withEarlier tx dtr rs .doubleOpen s
  · split
    · cases answered with
      | ok => exact complete_withEarlier tx dtr rs .ok .none (openSuccess baud parity stop s')
      | portNotFound | portInUse | portOpenError => exact complete_withEarlier tx dtr rs _ .none s'
    · exact complete_withEarlier tx dtr rs .configError .none s

theorem execLinkWrite_withEarlier (bytes : List Byte) (s : State) :
    execLinkWrite bytes (withEarlier tx dtr rs s) = mapNext (withEarlier tx dtr rs) (execLinkWrite bytes s) := by
  refine requireOpen_withEarlier tx dtr rs ?_
  rw [drawWrite_withEarlier]
  rcases drawWrite s with ⟨_ | k, s'⟩ <;>
    exact (congrArg _ (appendTxHist_withEarlier tx dtr rs _ s')).trans (complete_withEarlier tx dtr rs _ _ _)

theorem execLinkClose_withEarlier (s : State) :
    execLinkClose (withEarlier tx dtr rs s) = mapNext (withEarlier tx dtr rs) (execLinkClose s) := by
  simp only [execLinkClose, apply_ite (mapNext (withEarlier tx dtr rs)), ← complete_withEarlier]
  rfl

theorem execRxReadOne_withEarlier (s : State) :
    execRxReadOne (withEarlier tx dtr rs s) = mapNext (withEarlier tx dtr rs) (execRxReadOne s) := by
  refine requireOpen_withEarlier tx dtr rs ?_
  simp only [apply_ite (mapNext (withEarlier tx dtr rs)), ← complete_withEarlier]
  rfl

theorem execEvtRxDeliver_withEarlier (b : Byte) (s : State) :
    execEvtRxDeliver b (withEarlier tx dtr rs s) = mapNext (withEarlier tx dtr rs) (execEvtRxDeliver b s) := by
  simp only [execEvtRxDeliver, apply_ite (mapNext (withEarlier tx dtr rs)), mapNext_next, ← appendRx_withEarlier]
  rfl

theorem execEvtTimer_withEarlier (s : State) :
    execEvtTimer (withEarlier tx dtr rs s) = mapNext (withEarlier tx dtr rs) (execEvtTimer s) := by
  simp only [execEvtTimer, apply_ite (mapNext (withEarlier tx dtr rs)), ← complete_withEarlier]
  rfl

/-! ## Every operation -/

theorem exec_withEarlier (i : Instr) (s : State) :
    exec i (withEarlier tx dtr rs s) = mapNext (withEarlier tx dtr rs) (exec i s) := by
  cases i with
  | linkOpen baud parity databits stop => exact execLinkOpen_withEarlier tx dtr rs baud parity databits stop s
  | linkWrite bytes => exact execLinkWrite_withEarlier tx dtr rs bytes s
  | linkSetTimeout ms =>
    exact requireOpen_withEarlier tx dtr rs (complete_withEarlier tx dtr rs _ _ { s with timeoutMs := ms })
  | linkPulseReset =>
    refine requireOpen_withEarlier tx dtr rs ?_
    rw [driveDtr_withEarlier, driveDtr_withEarlier, complete_withEarlier]
  | linkClose => exact execLinkClose_withEarlier tx dtr rs s
  | rxReadOne => exact execRxReadOne_withEarlier tx dtr rs s
  | rxAvailable => exact requireOpen_withEarlier tx dtr rs (complete_withEarlier tx dtr rs _ _ s)
  | rxClear =>
    exact requireOpen_withEarlier tx dtr rs
      (complete_withEarlier tx dtr rs _ _ { s with rx := { s.rx with first := 0, last := 0 } })
  | encode len payload => exact complete_withEarlier tx dtr rs _ _ s
  | crcClear => exact complete_withEarlier tx dtr rs _ _ { s with crcAcc := Config.crcSeed }
  | crcStep b => exact complete_withEarlier tx dtr rs _ _ { s with crcAcc := crc8Byte s.crcAcc b }
  | crcRead => exact complete_withEarlier tx dtr rs _ _ s
  | decReset => exact complete_withEarlier tx dtr rs _ _ (resetDecoder s)
  | decFeed b =>
    show complete .ok (.bit (feed b (withEarlier tx dtr rs s)).2) (feed b (withEarlier tx dtr rs s)).1 = _
    rw [feed_withEarlier]
    exact complete_withEarlier tx dtr rs _ _ (feed b s).1
  | decResult => exact complete_withEarlier tx dtr rs _ _ s
  | putU8 v | putI8 v | putU16 v | putI16 v | putU32 v | putI32 v => exact complete_withEarlier tx dtr rs _ _ s
  | getU8 | getI8 | getU16 | getI16 | getU32 | getI32 => exact getField_withEarlier tx dtr rs _ _ s
  | evtRxDeliver b => exact execEvtRxDeliver_withEarlier tx dtr rs b s
  | evtTimer => exact execEvtTimer_withEarlier tx dtr rs s

end Commutation

/-! ## The writers -/

theorem Change.txHist_eq {i : Instr} {s t : State} (h : Change i s t) (hi : ∀ bytes, i ≠ .linkWrite bytes) :
    t.txHist = s.txHist := by
  cases h with
  | sent bytes => exact absurd rfl (hi bytes)
  | delivered b => exact appendRx_txHist b _
  | fed b => exact feed_txHist b s
  | _ => rfl

theorem Change.dtrHist_eq {i : Instr} {s t : State} (h : Change i s t) (hi : i ≠ .linkPulseReset) :
    t.dtrHist = s.dtrHist := by
  cases h with
  | pulsed => exact absurd rfl hi
  | delivered b => exact appendRx_dtrHist b _
  | fed b => exact feed_dtrHist b s
  | _ => rfl

/-! ## The statement -/

/-- Settles O19: every operation commutes with `withEarlier`, and of the changes only LINK_WRITE's and LINK_PULSE_RESET's
touch a history. -/
theorem historiesAreOnlyWritten : Obligations.HistoriesAreOnlyWritten := by
  refine ⟨fun i s tx dtr rs => exec_withEarlier tx dtr rs i s, fun i s t h => ?_⟩
  obtain ⟨u, hchange, hsame⟩ := exec_changed i s t h
  exact ⟨fun hi => hsame.txHist.trans (hchange.txHist_eq hi), fun hi => hsame.dtrHist.trans (hchange.dtrHist_eq hi)⟩

end Sys2Proof.Machine
end

section
/-! PROOFS. The CLIENT's turn while a read holds (10_state.md R35, 41_rxbuf.md R78), and the values of reset (R36). -/

namespace Sys2Proof.Machine

/-- A held read is retried, whatever the program. -/
theorem clientTurn_of_held {s : State} (hp : s.pend = .readOne) : clientTurn s = exec .rxReadOne s := by
  unfold clientTurn
  rw [hp]

/-- Settles O9: the step is the CLIENT's turn, in which the held read goes before the program. -/
theorem heldReadBlocksTheClient : Obligations.HeldReadBlocksTheClient := by
  intro s rest hl hp hs
  rw [step_of_schedule_cons hl hs, takeTurn_client]
  exact clientTurn_of_held hp

/-- Settles O12: the table of R36 is read off `State.reset`. -/
theorem resetLeavesTheTableValues : Obligations.ResetLeavesTheTableValues :=
  ⟨rfl, rfl, rfl, rfl, rfl, rfl, rfl, rfl, rfl, rfl, rfl, rfl, rfl, rfl, rfl, rfl, rfl, rfl, rfl, rfl, rfl, rfl⟩

end Sys2Proof.Machine
end

section
/-! PROOFS. Who writes the receive buffer's storage (20_memory.md R37, 41_rxbuf.md R77), and the order in which LINK_WRITEs
reach the transmit history (20_memory.md R47, 40_link.md R72). -/

namespace Sys2Proof.Machine

/-! ## The storage -/

/-- Appending writes no index but `rx_last`, whether the buffer has room, doubles or overflows. -/
theorem appendRx_read_of_ne_last (b : Byte) {s : State} {a : Nat} (ha : a ≠ s.rx.last) :
    (appendRx b s).rx.buf.read a = s.rx.buf.read a := by
  have hwrite : (s.rx.buf.write s.rx.last b).read a = s.rx.buf.read a := by rw [read_write, if_neg ha]
  rcases appendRx_cases b s with ⟨-, e⟩ | ⟨-, -, e⟩ | ⟨-, -, e⟩
  · rw [e]; exact hwrite
  · rw [e]; exact hwrite
  · rw [e]

theorem Change.read_eq {i : Instr} {s t : State} {a : Nat} (h : Change i s t)
    (hopen : ∀ baud parity databits stop, i ≠ .linkOpen baud parity databits stop)
    (hdeliver : ∀ b, i = .evtRxDeliver b → a ≠ s.rx.last) : t.rx.buf.read a = s.rx.buf.read a := by
  cases h with
  | opened => exact absurd rfl (hopen _ _ _ _)
  | delivered b => exact appendRx_read_of_ne_last b (hdeliver b rfl)
  | consumed => rw [consumeRx_eq]
  | fed b => rw [feed_rx]
  | _ => rfl

/-- Settles O20: of an operation's changes only a delivery writes the storage of an open link, by appending. -/
theorem onlyTheReaderWritesStorage : Obligations.OnlyTheReaderWritesStorage := by
  intro i s t h hopen a hdeliver
  obtain ⟨u, hchange, hsame⟩ := exec_changed i s t h
  rw [hsame.rx]
  exact hchange.read_eq hopen hdeliver

/-! ## The transmit history -/

theorem drawWrite_of_answer {s : State} {w : Config.WriteOutcome} {ws : List Config.WriteOutcome}
    (h : s.outside.writeAnswers = w :: ws) :
    drawWrite s = (w, { s with outside := { s.outside with writeAnswers := ws } }) := by
  unfold drawWrite
  rw [h]

/-- What a LINK_WRITE leaves to the next one: the line is still open, nothing holds, its answer is used up, and its bytes
stand at the end of the history. -/
theorem execLinkWrite_of_answer (bytes : List Byte) {s : State} {w : Config.WriteOutcome}
    {ws : List Config.WriteOutcome} (hl : s.live) (ho : s.linkOpen = true) (hp : s.pend = .none)
    (hw : s.outside.writeAnswers = w :: ws) :
    ∃ t, exec (.linkWrite bytes) s = .next t ∧ t.live ∧ t.linkOpen = true ∧ t.pend = .none
      ∧ t.outside.writeAnswers = ws ∧ t.txHist = s.txHist ++ sentBytes bytes w := by
  refine ⟨_, execLinkWrite_eq bytes s ho, hl, ho, hp, ?_, ?_⟩ <;> rw [drawWrite_of_answer hw]

/-- Settles O25, by induction on the writes: each finds its own answer first in ENV's list. -/
theorem transmitOrderIsProgramOrder : Obligations.TransmitOrderIsProgramOrder := by
  intro writes
  induction writes with
  | nil => exact fun s _ _ _ _ _ => ⟨s, rfl, by simp⟩
  | cons write writes ih =>
    intro s more hl ho hp hw
    obtain ⟨u, hexec, hul, huo, hup, huw, hsent⟩ := execLinkWrite_of_answer write.1 hl ho hp hw
    obtain ⟨t, hrun, ht⟩ := ih u more hul huo hup huw
    refine ⟨t, ?_, ?_⟩
    · rw [List.map_cons, runOps_cons _ _ s u hl hp hexec, hrun]
    · rw [ht, hsent, List.map_cons, List.flatten_cons, List.append_assoc]

end Sys2Proof.Machine
end

section
/-! PROOFS. The serial line (20_memory.md R43, 70_reset_and_hazards.md R149): a character bit by bit, its parity, and the
level of the line around the characters. -/

namespace Sys2Proof.Machine

/-! ## A character as bits, each of two half-bits -/

/-- The bits of a character before its stop bits: the start bit, the data bits and the parity bit if there is one. -/
def characterBits (cfg : LineConfig) (b : Byte) : List Bool := false :: (characterData b ++ parityBits cfg b)

/-- Each level for two half-bits. -/
def halfBits (levels : List Bool) : List Bool := levels.flatMap fun level => [level, level]

theorem halfBits_cons (level : Bool) (levels : List Bool) :
    halfBits (level :: levels) = level :: level :: halfBits levels := rfl

theorem characterLevels_eq (cfg : LineConfig) (b : Byte) :
    characterLevels cfg b = halfBits (characterBits cfg b) ++ List.replicate cfg.stop.toNat true := rfl

theorem length_halfBits (levels : List Bool) : (halfBits levels).length = 2 * levels.length := by
  induction levels with
  | nil => rfl
  | cons level levels ih => rw [halfBits_cons, List.length_cons, List.length_cons, List.length_cons, ih]; omega

/-- Bit `k` is at half-bits `2k` and `2k + 1`. -/
theorem getElem?_halfBits (levels : List Bool) (k : Nat) :
    (halfBits levels)[2 * k]? = levels[k]? ∧ (halfBits levels)[2 * k + 1]? = levels[k]? := by
  induction levels generalizing k with
  | nil => exact ⟨rfl, rfl⟩
  | cons level levels ih =>
    cases k with
    | zero => exact ⟨rfl, rfl⟩
    | succ k => exact ih k

theorem characterLevels_of_bit {cfg : LineConfig} {b : Byte} {k : Nat} {level : Bool}
    (h : (characterBits cfg b)[k]? = some level) :
    (characterLevels cfg b)[2 * k]? = some level ∧ (characterLevels cfg b)[2 * k + 1]? = some level := by
  obtain ⟨heven, hodd⟩ := getElem?_halfBits (characterBits cfg b) k
  obtain ⟨hk, -⟩ := List.getElem?_eq_some_iff.mp h
  have hlen := length_halfBits (characterBits cfg b)
  rw [characterLevels_eq, List.getElem?_append_left (by omega), List.getElem?_append_left (by omega), heven, hodd]
  exact ⟨h, h⟩

/-! ## The lengths (R149) -/

theorem length_characterData (b : Byte) : (characterData b).length = 8 := rfl

theorem length_parityBits (cfg : LineConfig) (b : Byte) :
    (parityBits cfg b).length = if cfg.parity = 1 ∨ cfg.parity = 2 then 1 else 0 := by
  unfold parityBits
  by_cases heven : cfg.parity = 1
  · rw [if_pos heven, if_pos (.inl heven)]; rfl
  · by_cases hodd : cfg.parity = 2
    · rw [if_neg heven, if_pos hodd, if_pos (.inr hodd)]; rfl
    · rw [if_neg heven, if_neg hodd, if_neg (not_or.mpr ⟨heven, hodd⟩)]; rfl

/-- R149's character time, the stop half-bits apart. -/
theorem characterHalfBits_eq (cfg : LineConfig) (b : Byte) :
    characterHalfBits cfg = (halfBits (characterBits cfg b)).length + cfg.stop.toNat := by
  rw [length_halfBits, characterBits, List.length_cons, List.length_append, length_characterData, length_parityBits,
    characterHalfBits]
  omega

theorem length_characterLevels (cfg : LineConfig) (b : Byte) :
    (characterLevels cfg b).length = characterHalfBits cfg := by
  rw [characterLevels_eq, List.length_append, List.length_replicate, characterHalfBits_eq cfg b]

/-! ## The bits of a character -/

theorem characterBits_data (cfg : LineConfig) (b : Byte) {k : Nat} (hk : k < 8) :
    (characterBits cfg b)[k + 1]? = some (b.getLsbD k) := by
  rw [characterBits, List.getElem?_cons_succ, List.getElem?_append_left (by rwa [length_characterData])]
  simp [characterData, hk]

theorem characterBits_parity {cfg : LineConfig} {b : Byte} {p : Bool} (h : parityBits cfg b = [p]) :
    (characterBits cfg b)[9]? = some p := by
  rw [characterBits, h]
  rfl

theorem parityBits_even {cfg : LineConfig} (b : Byte) (h : cfg.parity = 1) :
    parityBits cfg b = [evenParityBit b] := if_pos h

theorem parityBits_odd {cfg : LineConfig} (b : Byte) (h : cfg.parity = 2) :
    parityBits cfg b = [!evenParityBit b] := by
  simp [parityBits, h]

/-! ## Parity: the XOR of the bits counts their ones modulo 2 -/

theorem toNat_foldl_xor (bits : List Bool) (acc : Bool) :
    (bits.foldl Bool.xor acc).toNat = (acc.toNat + bits.count true) % 2 := by
  induction bits generalizing acc with
  | nil => cases acc <;> rfl
  | cons bit bits ih =>
    rw [List.foldl_cons, ih]
    cases bit <;> cases acc <;> simp <;> omega

theorem toNat_evenParityBit (b : Byte) : (evenParityBit b).toNat = (characterData b).count true % 2 := by
  rw [evenParityBit, toNat_foldl_xor, Bool.toNat_false, Nat.zero_add]

theorem count_true_append_singleton (bits : List Bool) (p : Bool) :
    (bits ++ [p]).count true = bits.count true + p.toNat := by
  cases p <;> simp

theorem evenParityBit_even (b : Byte) : (characterData b ++ [evenParityBit b]).count true % 2 = 0 := by
  rw [count_true_append_singleton, toNat_evenParityBit]
  omega

theorem evenParityBit_odd (b : Byte) : (characterData b ++ [!evenParityBit b]).count true % 2 = 1 := by
  have hbit := toNat_evenParityBit b
  have hnot : (!evenParityBit b).toNat = 1 - (evenParityBit b).toNat := by cases evenParityBit b <;> rfl
  rw [count_true_append_singleton, hnot]
  omega

/-! ## Characters -/

/-- Settles O58: the start bit, the data bits and the parity bit are bits 0, 1 to 8 and 9 of the character, and bit `k` is
at half-bits `2k` and `2k + 1`; the stop half-bits follow the bits. -/
theorem charactersHaveTheirParity : Obligations.CharactersHaveTheirParity := by
  intro cfg b
  refine ⟨length_characterLevels cfg b, rfl, fun k hk => ?data, ?stop, fun h => ?even, fun h => ?odd⟩
  case data =>
    have hbit := characterLevels_of_bit (characterBits_data cfg b hk)
    rwa [show 2 * (k + 1) = 2 + 2 * k by omega, show 2 + 2 * k + 1 = 3 + 2 * k by omega] at hbit
  case stop =>
    rw [characterHalfBits_eq cfg b, Nat.add_sub_cancel, characterLevels_eq, List.drop_left]
  case even =>
    obtain ⟨h18, h19⟩ := characterLevels_of_bit (characterBits_parity (parityBits_even b h))
    exact ⟨_, h18, h19, evenParityBit_even b⟩
  case odd =>
    obtain ⟨h18, h19⟩ := characterLevels_of_bit (characterBits_parity (parityBits_odd b h))
    exact ⟨_, h18, h19, evenParityBit_odd b⟩

/-! ## The line over time -/

theorem lineLevelAt_of_length_le {cfg : LineConfig} {traffic : List Sending} {t : Nat}
    (h : (lineLevels cfg traffic).length ≤ t) : lineLevelAt cfg traffic t = idleLevel := by
  rw [lineLevelAt, List.getElem?_eq_none h, Option.getD_none]

/-- Later traffic is on the line as if it began when the earlier is over. -/
theorem lineLevelAt_append (cfg : LineConfig) (earlier later : List Sending) (t : Nat) :
    lineLevelAt cfg (earlier ++ later) ((lineLevels cfg earlier).length + t) = lineLevelAt cfg later t := by
  rw [lineLevelAt, lineLevels_append, List.getElem?_append_right (Nat.le_add_right _ _), Nat.add_sub_cancel_left,
    lineLevelAt]

theorem lineLevelAt_gap {cfg : LineConfig} {x : Sending} {later : List Sending} {t : Nat} (h : t < x.gap) :
    lineLevelAt cfg (x :: later) t = idleLevel := by
  rw [lineLevelAt, lineLevels_cons, List.append_assoc,
    List.getElem?_append_left (by rwa [List.length_replicate]), List.getElem?_replicate_of_lt h, Option.getD_some]

theorem lineLevelAt_character {cfg : LineConfig} {x : Sending} {later : List Sending} {t : Nat}
    (h : t < characterHalfBits cfg) :
    (characterLevels cfg x.byte)[t]? = some (lineLevelAt cfg (x :: later) (x.gap + t)) := by
  have hlt : t < (characterLevels cfg x.byte).length := by rwa [length_characterLevels]
  have hgap : (List.replicate x.gap idleLevel).length ≤ x.gap + t := by
    rw [List.length_replicate]
    exact Nat.le_add_right _ _
  rw [lineLevelAt, lineLevels_cons, List.append_assoc, List.getElem?_append_right hgap, List.length_replicate,
    Nat.add_sub_cancel_left, List.getElem?_append_left hlt, List.getElem?_eq_getElem hlt, Option.getD_some]

/-- Settles O59: past the earlier traffic come the gap, at the idle level, and the character; past all traffic the line
is idle. -/
theorem lineIdlesHigh : Obligations.LineIdlesHigh := by
  intro cfg earlier x later t
  refine ⟨rfl, fun hgap => ?_, fun hchar => ?_, lineLevelAt_of_length_le⟩
  · rw [lineLevelAt_append]
    exact lineLevelAt_gap hgap
  · rw [Nat.add_assoc, lineLevelAt_append]
    exact lineLevelAt_character hchar

end Sys2Proof.Machine
end

section
/-! PROOFS. The layout of a request's fields (20_memory.md R44, 30_encoding.md R60). -/

namespace Sys2Proof.Machine

@[simp] theorem length_put (w : Nat) (v : Int) : (put w v).length = w := length_leBytes w _

/-- A field is found at the length of what stands before it. -/
theorem take_drop_field {before field after : List Byte} {offset width : Nat} (hoffset : before.length = offset)
    (hwidth : field.length = width) : ((before ++ (field ++ after)).drop offset).take width = field := by
  rw [List.drop_left' hoffset, List.take_left' hwidth]

theorem queuePointAbsRequest_eq (sx sy sz dda : Int) :
    queuePointAbsRequest sx sy sz dda = 129 :: (put 4 sx ++ (put 4 sy ++ (put 4 sz ++ (put 4 dda ++ [])))) := by
  simp [queuePointAbsRequest, request, MasterCommand.code]

/-- Settles O60: each field has four bytes, so the fields before it and the command code give its offset. -/
theorem queuePointFieldsAreUnpadded : Obligations.QueuePointFieldsAreUnpadded := by
  intro sx sy sz dda
  rw [queuePointAbsRequest_eq]
  refine ⟨by simp, rfl, ?_, ?_, ?_, ?_⟩
  · exact take_drop_field (before := [129]) rfl (length_put 4 sx)
  · exact take_drop_field (before := 129 :: put 4 sx) rfl (length_put 4 sy)
  · exact take_drop_field (before := 129 :: (put 4 sx ++ put 4 sy)) rfl (length_put 4 sz)
  · exact take_drop_field (before := 129 :: (put 4 sx ++ (put 4 sy ++ put 4 sz))) rfl (length_put 4 dda)

end Sys2Proof.Machine
end

section
/-! PROOFS. The encoding (30_encoding.md R61 to R64): what each operand reader and each row of the opcode map lets
through, the round trips of transactions and of the byte form, and the words that spell nothing. -/

namespace Sys2Proof

/-! ## What decodes re-encodes: the operation is well-formed, and its word and operands are those that were read -/

/-- `i` is a well-formed operation whose transaction has these fields and operands. -/
structure Spells (op sub : BitVec 4) (imm : Byte) (vs : List Int) (i : Instr) : Prop where
  wellFormed : i.wellFormed = true
  word : encodeWord i = opWord op sub imm
  operands : encodeOperandList i = vs

/-- Where R63 has "-" for `imm`, what is read is read with `imm` 0. -/
theorem Spells.of_withZeroImm {op sub : BitVec 4} {imm : Byte} {vs : List Int} {r : Decoded Instr} {i : Instr}
    (h : withZeroImm imm r = .ok i) (hr : r = .ok i → Spells op sub 0 vs i) : Spells op sub imm vs i := by
  unfold withZeroImm at h
  split at h
  · rename_i himm
    rw [himm]
    exact hr h
  · cases h

theorem Spells.of_noOperands {op sub : BitVec 4} {imm : Byte} {vs : List Int} {i j : Instr}
    (h : noOperands j vs = .ok i) (hj : Spells op sub imm [] j) : Spells op sub imm vs i := by
  cases vs <;> cases h
  exact hj

/-- A PUT reads one integer of its type's range (R62). -/
theorem Spells.of_putOperands {op sub : BitVec 4} {imm : Byte} {vs : List Int} {lo hi : Int} {mk : Int → Instr}
    {i : Instr} (h : putOperands lo hi mk vs = .ok i)
    (hmk : ∀ v, lo ≤ v ∧ v ≤ hi → Spells op sub imm [v] (mk v)) : Spells op sub imm vs i := by
  unfold putOperands at h
  split at h
  · split at h <;> cases h
    exact hmk _ ‹_›
  · cases h

theorem spells_of_linkOpenOperands {vs : List Int} {i : Instr} (h : linkOpenOperands vs = .ok i) :
    Spells 1 0 0 vs i := by
  unfold linkOpenOperands at h
  split at h
  · split at h
    · rename_i hb hp hd ht
      cases h
      rw [natOperand_eq_some _ _ _ hb, natOperand_eq_some _ _ _ hp, natOperand_eq_some _ _ _ hd,
        natOperand_eq_some _ _ _ ht]
      exact ⟨rfl, rfl, rfl⟩
    · cases h
  · cases h

theorem spells_of_linkWriteOperands {vs : List Int} {i : Instr} (h : linkWriteOperands vs = .ok i) :
    Spells 1 1 0 vs i := by
  unfold linkWriteOperands at h
  split at h <;> cases h
  rename_i hbytes
  rw [byteOperands_eq_some _ _ hbytes]
  exact ⟨rfl, rfl, rfl⟩

theorem spells_of_setTimeoutOperands {vs : List Int} {i : Instr} (h : setTimeoutOperands vs = .ok i) :
    Spells 1 2 0 vs i := by
  unfold setTimeoutOperands at h
  split at h
  · split at h <;> cases h
    rename_i hms
    rw [natOperand_eq_some _ _ _ hms]
    exact ⟨rfl, rfl, rfl⟩
  · cases h

theorem spells_of_encodeOperands {len : Byte} {vs : List Int} {i : Instr} (h : encodeOperands len vs = .ok i) :
    Spells 3 0 len vs i := by
  unfold encodeOperands at h
  split at h
  · split at h <;> cases h
    rename_i hbytes hlen
    rw [byteOperands_eq_some _ _ hbytes]
    exact ⟨beq_iff_eq.mpr hlen, rfl, rfl⟩
  · cases h

/-! ## The rows of each unit (R63) -/

theorem spells_of_decodeLink {sub : Nat} {imm : Byte} {vs : List Int} {i : Instr}
    (h : decodeLink sub imm vs = .ok i) : Spells 1 (BitVec.ofNat 4 sub) imm vs i := by
  unfold decodeLink at h
  split at h
  · exact .of_withZeroImm h spells_of_linkOpenOperands
  · exact .of_withZeroImm h spells_of_linkWriteOperands
  · exact .of_withZeroImm h spells_of_setTimeoutOperands
  · exact .of_withZeroImm h fun h => .of_noOperands h ⟨rfl, rfl, rfl⟩
  · exact .of_withZeroImm h fun h => .of_noOperands h ⟨rfl, rfl, rfl⟩
  · cases h

theorem spells_of_decodeRxb {sub : Nat} {imm : Byte} {vs : List Int} {i : Instr}
    (h : decodeRxb sub imm vs = .ok i) : Spells 2 (BitVec.ofNat 4 sub) imm vs i := by
  unfold decodeRxb at h
  split at h
  · exact .of_withZeroImm h fun h => .of_noOperands h ⟨rfl, rfl, rfl⟩
  · exact .of_withZeroImm h fun h => .of_noOperands h ⟨rfl, rfl, rfl⟩
  · exact .of_withZeroImm h fun h => .of_noOperands h ⟨rfl, rfl, rfl⟩
  · cases h

theorem spells_of_decodeEnc {sub : Nat} {imm : Byte} {vs : List Int} {i : Instr}
    (h : decodeEnc sub imm vs = .ok i) : Spells 3 (BitVec.ofNat 4 sub) imm vs i := by
  unfold decodeEnc at h
  split at h
  · exact spells_of_encodeOperands h
  · cases h

theorem spells_of_decodeCrc {sub : Nat} {imm : Byte} {vs : List Int} {i : Instr}
    (h : decodeCrc sub imm vs = .ok i) : Spells 4 (BitVec.ofNat 4 sub) imm vs i := by
  unfold decodeCrc at h
  split at h
  · exact .of_withZeroImm h fun h => .of_noOperands h ⟨rfl, rfl, rfl⟩
  · exact .of_noOperands h ⟨rfl, rfl, rfl⟩
  · exact .of_withZeroImm h fun h => .of_noOperands h ⟨rfl, rfl, rfl⟩
  · cases h

theorem spells_of_decodeDec {sub : Nat} {imm : Byte} {vs : List Int} {i : Instr}
    (h : decodeDec sub imm vs = .ok i) : Spells 5 (BitVec.ofNat 4 sub) imm vs i := by
  unfold decodeDec at h
  split at h
  · exact .of_withZeroImm h fun h => .of_noOperands h ⟨rfl, rfl, rfl⟩
  · exact .of_noOperands h ⟨rfl, rfl, rfl⟩
  · exact .of_withZeroImm h fun h => .of_noOperands h ⟨rfl, rfl, rfl⟩
  · cases h

theorem spells_of_decodePut {sub : Nat} {imm : Byte} {vs : List Int} {i : Instr}
    (h : decodePut sub imm vs = .ok i) : Spells 6 (BitVec.ofNat 4 sub) imm vs i := by
  unfold decodePut at h
  split at h
  case h_7 => cases h
  all_goals exact .of_withZeroImm h fun h => .of_putOperands h fun _ range => ⟨decide_eq_true range, rfl, rfl⟩

theorem spells_of_decodeGet {sub : Nat} {imm : Byte} {vs : List Int} {i : Instr}
    (h : decodeGet sub imm vs = .ok i) : Spells 7 (BitVec.ofNat 4 sub) imm vs i := by
  unfold decodeGet at h
  split at h
  case h_7 => cases h
  all_goals exact .of_withZeroImm h fun h => .of_noOperands h ⟨rfl, rfl, rfl⟩

theorem spells_of_decodeEventRow {sub : Nat} {imm : Byte} {vs : List Int} {i : Instr}
    (h : decodeEventRow sub imm vs = .ok i) : Spells 15 (BitVec.ofNat 4 sub) imm vs i := by
  unfold decodeEventRow at h
  split at h
  · exact .of_noOperands h ⟨rfl, rfl, rfl⟩
  · exact .of_withZeroImm h fun h => .of_noOperands h ⟨rfl, rfl, rfl⟩
  · cases h

/-- The whole map: what it reads from a word's fields is spelled with those fields. -/
theorem spells_of_decode {t : Transaction} {i : Instr} (h : decode t = .ok i) :
    Spells (opField t.word) (subField t.word) (immField t.word) t.operands i := by
  have hop : BitVec.ofNat 4 (opField t.word).toNat = opField t.word := by simp
  have hsub : BitVec.ofNat 4 (subField t.word).toNat = subField t.word := by simp
  rw [← hop, ← hsub]
  unfold decode at h
  dsimp only at h
  split at h <;> rename_i hrow
  case h_9 => cases h
  all_goals rw [hrow]
  · exact spells_of_decodeLink h
  · exact spells_of_decodeRxb h
  · exact spells_of_decodeEnc h
  · exact spells_of_decodeCrc h
  · exact spells_of_decodeDec h
  · exact spells_of_decodePut h
  · exact spells_of_decodeGet h
  · exact spells_of_decodeEventRow h

/-- Settles O2: the row that reads the transaction spells it with the same fields, and a word is its three fields. -/
theorem decodedTransactionsReencode : Obligations.DecodedTransactionsReencode := by
  intro t i h
  obtain ⟨wellFormed, word, operands⟩ := spells_of_decode h
  rw [opWord_fields] at word
  exact ⟨wellFormed, by rw [encode, word, operands]⟩

/-! ## What an operation is encoded as is read back -/

theorem linkOpenOperands_toNat (baud : Word32) (parity databits stop : Byte) :
    linkOpenOperands [(baud.toNat : Int), parity.toNat, databits.toNat, stop.toNat]
      = .ok (.linkOpen baud parity databits stop) := by
  simp only [linkOpenOperands, natOperand_toNat]

theorem linkWriteOperands_ofBytes (bs : List Byte) : linkWriteOperands (ofBytes bs) = .ok (.linkWrite bs) := by
  simp only [linkWriteOperands, byteOperands_ofBytes]

theorem setTimeoutOperands_toNat (ms : Word32) :
    setTimeoutOperands [(ms.toNat : Int)] = .ok (.linkSetTimeout ms) := by
  simp only [setTimeoutOperands, natOperand_toNat]

theorem encodeOperands_ofBytes {len : Byte} {payload : List Byte} (h : payload.length = len.toNat) :
    encodeOperands len (ofBytes payload) = .ok (.encode len payload) := by
  simp only [encodeOperands, byteOperands_ofBytes, if_pos h]

theorem putOperands_of_range {lo hi v : Int} (mk : Int → Instr) (h : lo ≤ v ∧ v ≤ hi) :
    putOperands lo hi mk [v] = .ok (mk v) := if_pos h

theorem decode_linkWord (sub : BitVec 4) (imm : Byte) (vs : List Int) :
    decode ⟨opWord 1 sub imm, vs⟩ = decodeLink sub.toNat imm vs := by
  simp only [decode, opField_opWord, subField_opWord, immField_opWord]
  rfl

theorem decode_rxbWord (sub : BitVec 4) (imm : Byte) (vs : List Int) :
    decode ⟨opWord 2 sub imm, vs⟩ = decodeRxb sub.toNat imm vs := by
  simp only [decode, opField_opWord, subField_opWord, immField_opWord]
  rfl

theorem decode_encWord (sub : BitVec 4) (imm : Byte) (vs : List Int) :
    decode ⟨opWord 3 sub imm, vs⟩ = decodeEnc sub.toNat imm vs := by
  simp only [decode, opField_opWord, subField_opWord, immField_opWord]
  rfl

theorem decode_crcWord (sub : BitVec 4) (imm : Byte) (vs : List Int) :
    decode ⟨opWord 4 sub imm, vs⟩ = decodeCrc sub.toNat imm vs := by
  simp only [decode, opField_opWord, subField_opWord, immField_opWord]
  rfl

theorem decode_decWord (sub : BitVec 4) (imm : Byte) (vs : List Int) :
    decode ⟨opWord 5 sub imm, vs⟩ = decodeDec sub.toNat imm vs := by
  simp only [decode, opField_opWord, subField_opWord, immField_opWord]
  rfl

theorem decode_putWord (sub : BitVec 4) (imm : Byte) (vs : List Int) :
    decode ⟨opWord 6 sub imm, vs⟩ = decodePut sub.toNat imm vs := by
  simp only [decode, opField_opWord, subField_opWord, immField_opWord]
  rfl

theorem decode_getWord (sub : BitVec 4) (imm : Byte) (vs : List Int) :
    decode ⟨opWord 7 sub imm, vs⟩ = decodeGet sub.toNat imm vs := by
  simp only [decode, opField_opWord, subField_opWord, immField_opWord]
  rfl

theorem decode_eventWord (sub : BitVec 4) (imm : Byte) (vs : List Int) :
    decode ⟨opWord 15 sub imm, vs⟩ = decodeEventRow sub.toNat imm vs := by
  simp only [decode, opField_opWord, subField_opWord, immField_opWord]
  rfl

/-- Settles O1: a word's fields select the operation's own row, whose operand reader takes back the operands. -/
theorem decodeInvertsEncode : Obligations.DecodeInvertsEncode := by
  intro i hwf
  cases i with
  | linkOpen baud parity databits stop =>
    exact (decode_linkWord _ _ _).trans (linkOpenOperands_toNat baud parity databits stop)
  | linkWrite bytes => exact (decode_linkWord _ _ _).trans (linkWriteOperands_ofBytes bytes)
  | linkSetTimeout ms => exact (decode_linkWord _ _ _).trans (setTimeoutOperands_toNat ms)
  | encode len payload => exact (decode_encWord _ _ _).trans (encodeOperands_ofBytes (beq_iff_eq.mp hwf))
  | putU8 v | putI8 v | putU16 v | putI16 v | putU32 v | putI32 v =>
    exact (decode_putWord _ _ _).trans (putOperands_of_range _ (of_decide_eq_true hwf))
  | linkPulseReset | linkClose => exact decode_linkWord _ _ _
  | rxReadOne | rxAvailable | rxClear => exact decode_rxbWord _ _ _
  | crcClear | crcStep | crcRead => exact decode_crcWord _ _ _
  | decReset | decFeed | decResult => exact decode_decWord _ _ _
  | getU8 | getI8 | getU16 | getI16 | getU32 | getI32 => exact decode_getWord _ _ _
  | evtRxDeliver | evtTimer => exact decode_eventWord _ _ _

end Sys2Proof
end

section
/-! PROOFS. The byte form (30_encoding.md R62, 92_eei_decisions.md D31): the word's two bytes and the operand bytes of an
operation are read back as its transaction. -/

namespace Sys2Proof

/-! ## The word -/

/-- A word, low byte first, is put together again from its two bytes. -/
theorem append_bytes_of_word (w : OpWord) : BitVec.ofNat 8 (w.toNat / 256) ++ BitVec.ofNat 8 w.toNat = w := by
  have := w.isLt
  apply BitVec.eq_of_toNat_eq
  rw [BitVec.toNat_append, ← Nat.shiftLeft_add_eq_or_of_lt (BitVec.isLt _), Nat.shiftLeft_eq, BitVec.toNat_ofNat,
    BitVec.toNat_ofNat]
  omega

theorem transactionOfBytes_wordBytes {w : OpWord} {operandBytes : List Byte} {vs : List Int}
    (h : operandsOfBytes (operandForm w) operandBytes = some vs) :
    transactionOfBytes (leBytes 2 w.toNat ++ operandBytes) = .ok ⟨w, vs⟩ := by
  simp only [leBytes, List.cons_append, List.nil_append, transactionOfBytes, append_bytes_of_word, h]

/-! ## The operands -/

/-- The bytes of a 32-bit register spell its number. -/
theorem leNat_leBytes_word32 (v : Word32) : leNat (leBytes 4 v.toNat) = v.toNat := by
  exact (leNat_leBytes 4 v.toNat).trans (Nat.mod_eq_of_lt v.isLt)

theorem leNat_leBytes_unsignedPart (n : Nat) (v : Int) :
    leNat (leBytes n (unsignedPart v (8 * n))) = unsignedPart v (8 * n) := by
  have hlt : unsignedPart v (8 * n) < 256 ^ n := by
    rw [show 256 ^ n = 2 ^ (8 * n) from (Nat.pow_mul 2 8 n).symm]
    have := Int.emod_lt_of_pos v (b := ((2 ^ (8 * n) : Nat) : Int)) (by positivity)
    have := Int.emod_nonneg v (b := ((2 ^ (8 * n) : Nat) : Int)) (by positivity)
    unfold unsignedPart
    omega
  rw [leNat_leBytes, Nat.mod_eq_of_lt hlt]

/-- The bytes of an unsigned field's value (00_scope.md R10) spell it. -/
theorem operandsOfBytes_unsigned (n : Nat) {v : Int} (h : 0 ≤ v ∧ v < (2 ^ (8 * n) : Nat)) :
    operandsOfBytes (.field n false) (leBytes n (unsignedPart v (8 * n))) = some [v] := by
  have hv : ((unsignedPart v (8 * n) : Nat) : Int) = v := by
    unfold unsignedPart
    rw [Int.emod_eq_of_lt h.1 h.2, Int.toNat_of_nonneg h.1]
  simp [operandsOfBytes, leNat_leBytes_unsignedPart, hv]

/-- The bytes of a two's-complement field's value spell it. -/
theorem operandsOfBytes_signed (n : Nat) (hn : 0 < n) {v : Int}
    (h : -(2 ^ (8 * n - 1) : Int) ≤ v ∧ v < 2 ^ (8 * n - 1)) :
    operandsOfBytes (.field n true) (leBytes n (unsignedPart v (8 * n))) = some [v] := by
  simp [operandsOfBytes, leNat_leBytes_unsignedPart, signedReading_unsignedPart v (8 * n) (by omega) h.1 h.2]

/-- The form of an operation's operands (R62). -/
def formOfOperation : Instr → OperandForm
  | .linkOpen _ _ _ _ => .linkOpen
  | .linkWrite _ => .bytes
  | .linkSetTimeout _ => .word32
  | .encode len _ => .count len.toNat
  | .putU8 _ => .field 1 false
  | .putI8 _ => .field 1 true
  | .putU16 _ => .field 2 false
  | .putI16 _ => .field 2 true
  | .putU32 _ => .field 4 false
  | .putI32 _ => .field 4 true
  | _ => .none

theorem operandForm_encodeWord (i : Instr) : operandForm (encodeWord i) = formOfOperation i := by
  cases i <;> simp [encodeWord, operandForm, formOfOperation]

/-- The operand bytes of an operation spell its operand list, in the form that its word announces. -/
theorem operandsOfBytes_encodeOperandBytes {i : Instr} (hwf : i.wellFormed = true) :
    operandsOfBytes (operandForm (encodeWord i)) (encodeOperandBytes i) = some (encodeOperandList i) := by
  rw [operandForm_encodeWord]
  cases i with
  | linkOpen baud parity databits stop =>
    exact congrArg (fun n : Nat => some [(n : Int), parity.toNat, databits.toNat, stop.toNat])
      (leNat_leBytes_word32 baud)
  | linkSetTimeout ms => exact congrArg (fun n : Nat => some [(n : Int)]) (leNat_leBytes_word32 ms)
  | encode len payload => exact if_pos (beq_iff_eq.mp hwf)
  | putU8 v => exact operandsOfBytes_unsigned 1 (by have := of_decide_eq_true hwf; omega)
  | putU16 v => exact operandsOfBytes_unsigned 2 (by have := of_decide_eq_true hwf; omega)
  | putU32 v => exact operandsOfBytes_unsigned 4 (by have := of_decide_eq_true hwf; omega)
  | putI8 v => exact operandsOfBytes_signed 1 (by decide) (by have := of_decide_eq_true hwf; omega)
  | putI16 v => exact operandsOfBytes_signed 2 (by decide) (by have := of_decide_eq_true hwf; omega)
  | putI32 v => exact operandsOfBytes_signed 4 (by decide) (by have := of_decide_eq_true hwf; omega)
  | _ => rfl

/-- Settles O3: the bytes are read back as the transaction `encode i`, which decodes to `i` by O1. -/
theorem byteFormDecodesBack : Obligations.ByteFormDecodesBack := by
  intro i hwf
  have htransaction : transactionOfBytes (encodeBytes i) = .ok (encode i) :=
    transactionOfBytes_wordBytes (operandsOfBytes_encodeOperandBytes hwf)
  simp only [decodeBytes, htransaction]
  exact decodeInvertsEncode i hwf

end Sys2Proof
end

section
/-! PROOFS. What spells no client operation (30_encoding.md R64, 60_exceptions.md R118), and words of the opcode map. -/

namespace Sys2Proof.Machine

/-! ## The CLIENT's part of the map -/

/-- The client decoder reads the map, but for the event rows. -/
theorem decodeClient_eq_ok_iff (t : Transaction) (i : Instr) :
    decodeClient t = .ok i ↔ opField t.word ≠ 15 ∧ decode t = .ok i := by
  unfold decodeClient
  split
  · simp [*]
  · exact (and_iff_right ‹_›).symm

/-- The word of an event has `op` 0xF. -/
theorem opField_encodeWord_of_isEvent {i : Instr} (h : i.isEvent = true) : opField (encodeWord i) = 15 := by
  cases i with
  | evtRxDeliver b => exact opField_opWord 15 0 b
  | evtTimer => rfl
  | _ => cases h

/-- What the client decoder reads is a well-formed operation of the client, spelled by that transaction. -/
theorem decodeClient_ok_spells {t : Transaction} {i : Instr} (h : decodeClient t = .ok i) :
    i.wellFormed = true ∧ i.isEvent = false ∧ encode i = t := by
  obtain ⟨hop, hdecode⟩ := (decodeClient_eq_ok_iff t i).mp h
  obtain ⟨hwf, rfl⟩ := decodedTransactionsReencode t i hdecode
  exact ⟨hwf, Bool.eq_false_iff.mpr fun hevent => hop (opField_encodeWord_of_isEvent hevent), rfl⟩

/-! ## Refusal -/

theorem issue_of_decodeClient_error {t : Transaction} {e : DecodeError} (h : decodeClient t = .error e) (s : State) :
    issue t s = refuse s := by
  unfold issue
  rw [h]

/-- Settles O5: the CLIENT's turn issues the transaction, which the client decoder does not read, since what it reads is
the encoding of an operation; so it is refused. -/
theorem illFormedTransactionsAreRefused : Obligations.IllFormedTransactionsAreRefused := by
  intro s t ts rest hl hp hs hprog hnone
  have herror : ∃ e, decodeClient t = .error e := by
    cases hdecode : decodeClient t with
    | error e => exact ⟨e, rfl⟩
    | ok i =>
      obtain ⟨hwf, hevent, hencode⟩ := decodeClient_ok_spells hdecode
      exact absurd hencode (hnone i hwf hevent)
  obtain ⟨e, herror⟩ := herror
  calc step s
    _ = clientTurn { s with outside := { s.outside with schedule := rest } } := by
      rw [step_of_schedule_cons hl hs, takeTurn_client]
    _ = issue t { s with outside := { s.outside with schedule := rest, program := ts } } :=
      clientTurn_of_program_cons hp hprog
    _ = refuse { s with outside := { s.outside with schedule := rest, program := ts } } :=
      issue_of_decodeClient_error herror _

/-! ## Words -/

/-- The words of the client's operations, row by row (R63): which `sub` each `op` lists, and where `imm` must be 0. -/
theorem fields_of_clientWord {i : Instr} (h : i.isEvent = false) :
    let op := (opField (encodeWord i)).toNat
    let sub := (subField (encodeWord i)).toNat
    let imm := immField (encodeWord i)
    (op = 1 ∧ sub ≤ 4 ∧ imm = 0) ∨ (op = 2 ∧ sub ≤ 2 ∧ imm = 0) ∨ (op = 3 ∧ sub = 0)
      ∨ ((op = 4 ∨ op = 5) ∧ sub ≤ 2 ∧ (sub = 1 ∨ imm = 0)) ∨ ((op = 6 ∨ op = 7) ∧ sub ≤ 5 ∧ imm = 0) := by
  cases i with
  | evtRxDeliver b => cases h
  | evtTimer => cases h
  | _ => simp [encodeWord]

/-- Settles O6: a word that the client decoder reads is the word of a client operation, and those lie in none of the
cases. -/
theorem reservedWordsSpellNothing : Obligations.ReservedWordsSpellNothing := by
  intro w vs hreserved i hdecode
  obtain ⟨-, hevent, hencode⟩ := decodeClient_ok_spells hdecode
  have hword : encodeWord i = w := congrArg Transaction.word hencode
  have hfields := fields_of_clientWord hevent
  rw [hword] at hfields
  dsimp only at hreserved hfields
  by_cases himm : immField w = 0
  · simp only [himm, ne_eq, not_true, false_and, or_false] at hreserved hfields
    omega
  · simp only [himm, ne_eq, not_false_eq_true, true_and, and_false, or_false, false_or] at hreserved hfields
    omega

/-- Settles O4: each word is decoded by evaluation. -/
theorem opcodeMapWordsDecode : Obligations.OpcodeMapWordsDecode :=
  ⟨by decide, by decide, by decide, by decide, by decide, by decide, by decide, by decide⟩

end Sys2Proof.Machine
end

section
/-! PROOFS. Frames (30_encoding.md R52, R53) and the CRC block (30_encoding.md R67, 43_crc.md R86, R89 to R91). -/

namespace Sys2Proof.Machine

/-! ## Frames -/

theorem frameOf_eq (payload : List Byte) :
    frameOf payload = Config.start :: BitVec.ofNat 8 payload.length :: (payload ++ [crc8 payload]) := rfl

theorem toNat_ofNat_length {payload : List Byte} (h : payload.length ≤ 255) :
    (BitVec.ofNat 8 payload.length).toNat = payload.length := by
  rw [BitVec.toNat_ofNat]
  omega

/-- R53, part by part: after START and LEN there are LEN payload bytes and their CRC. -/
theorem wellFormedFrame_cons_cons_iff (st len : Byte) (rest : List Byte) :
    wellFormedFrame (st :: len :: rest) = true
      ↔ st = Config.start ∧ rest.length = len.toNat + 1
        ∧ rest.drop len.toNat = [crc8 (rest.take len.toNat)] := by
  simp [wellFormedFrame, and_assoc]

theorem wellFormedFrame_frameOf {payload : List Byte} (h : payload.length ≤ 255) :
    wellFormedFrame (frameOf payload) = true := by
  rw [frameOf_eq, wellFormedFrame_cons_cons_iff, toNat_ofNat_length h, List.take_left, List.drop_left]
  exact ⟨rfl, List.length_append, rfl⟩

/-- The payload of a well-formed frame is what stands between LEN and the last byte. -/
theorem eq_frameOf_of_wellFormedFrame {st len : Byte} {rest : List Byte}
    (h : wellFormedFrame (st :: len :: rest) = true) : st :: len :: rest = frameOf (rest.take len.toNat) := by
  obtain ⟨rfl, hlength, hcrc⟩ := (wellFormedFrame_cons_cons_iff st len rest).mp h
  have hlen : (rest.take len.toNat).length = len.toNat := by rw [List.length_take]; omega
  rw [frameOf_eq, hlen, ← hcrc, List.take_append_drop, BitVec.ofNat_toNat, BitVec.setWidth_eq]

/-- Settles O40: a well-formed frame is the frame of the bytes its LEN counts, and LEN is one byte. -/
theorem wellFormedFramesAreEncodings : Obligations.WellFormedFramesAreEncodings := by
  intro f
  constructor
  · intro h
    match f with
    | [] | [_] => cases h
    | st :: len :: rest =>
      refine ⟨rest.take len.toNat, ?_, eq_frameOf_of_wellFormedFrame h⟩
      have := len.isLt
      rw [List.length_take]
      omega
  · rintro ⟨payload, hlength, rfl⟩
    exact wellFormedFrame_frameOf hlength

/-! ## The CRC block -/

/-- CRC_STEPs fold their bytes into the accumulator, and CRC_READ returns it; the decoder is not touched. -/
theorem runOps_crcStepsThenRead (bytes : List Byte) {s : State} (hl : s.live) (hp : s.pend = .none) :
    ∃ t, runOps (bytes.map .crcStep ++ [.crcRead]) s = .next t ∧ t.crcAcc = bytes.foldl crc8Byte s.crcAcc
      ∧ t.results.getLast? = some ⟨.ok, .crc (bytes.foldl crc8Byte s.crcAcc)⟩ ∧ t.dec = s.dec ∧ t.res = s.res := by
  induction bytes generalizing s with
  | nil => exact ⟨_, runOps_cons .crcRead [] s _ hl hp rfl, rfl, by simp, rfl, rfl⟩
  | cons b bytes ih =>
    obtain ⟨t, hrun, ht⟩ :=
      ih (s := answer .ok (.crc (crc8Byte s.crcAcc b)) { s with crcAcc := crc8Byte s.crcAcc b }) hl hp
    exact ⟨t, (runOps_cons (.crcStep b) _ s _ hl hp rfl).trans hrun, ht⟩

/-- Settles O45: CRC_CLEAR leaves the seed, from which the steps fold the bytes to their CRC. -/
theorem crcBlockComputesTheCrc : Obligations.CrcBlockComputesTheCrc := by
  intro bytes s hl hp
  obtain ⟨t, hrun, ht⟩ :=
    runOps_crcStepsThenRead bytes (s := answer .ok .none { s with crcAcc := Config.crcSeed }) hl hp
  exact ⟨t, (runOps_cons .crcClear _ s _ hl hp rfl).trans hrun, ht⟩

end Sys2Proof.Machine
end

section
/-! PROOFS. The decoder fed a list of bytes (44_decoder.md R93, 30_encoding.md R67): what it writes, what a whole frame
does to it, and FEED_ALL. -/

namespace Sys2Proof.Machine

/-! ## Feeding a list of bytes -/

/-- The decoder after a list of bytes, with the `done` bits of their feeds; no result records are returned. -/
def feedAll : List Byte → State → State × List Bool
  | [], s => (s, [])
  | b :: bytes, s => ((feedAll bytes (feed b s).1).1, (feed b s).2 :: (feedAll bytes (feed b s).1).2)

theorem feedAll_cons (b : Byte) (bytes : List Byte) (s : State) :
    feedAll (b :: bytes) s
      = ((feedAll bytes (feed b s).1).1, (feed b s).2 :: (feedAll bytes (feed b s).1).2) := rfl

theorem feedAll_append (xs ys : List Byte) (s : State) :
    feedAll (xs ++ ys) s
      = ((feedAll ys (feedAll xs s).1).1, (feedAll xs s).2 ++ (feedAll ys (feedAll xs s).1).2) := by
  induction xs generalizing s with
  | nil => rfl
  | cons x xs ih => simp only [List.cons_append, feedAll_cons, ih]

/-- A feed writes the decoder, the result registers and the field cursor. -/
theorem feed_frame (b : Byte) (s : State) :
    ∃ dec res cursor, (feed b s).1 = { s with dec := dec, res := res, fldCursor := cursor } := by
  cases hd : s.dec.state with
  | awaitStart => rw [feed_of_awaitStart b hd]; split <;> exact ⟨_, _, _, rfl⟩
  | awaitLength => rw [feed_of_awaitLength b hd]; split <;> exact ⟨_, _, _, rfl⟩
  | inPayload => rw [feed_of_inPayload b hd]; exact ⟨_, _, _, rfl⟩
  | awaitCrc => rw [feed_of_awaitCrc b hd]; exact ⟨_, _, _, rfl⟩

theorem feedAll_frame (bytes : List Byte) (s : State) :
    ∃ dec res cursor, (feedAll bytes s).1 = { s with dec := dec, res := res, fldCursor := cursor } := by
  induction bytes generalizing s with
  | nil => exact ⟨_, _, _, rfl⟩
  | cons b bytes ih =>
    obtain ⟨_, _, _, hfeed⟩ := feed_frame b s
    obtain ⟨dec, res, cursor, hrest⟩ := ih (feed b s).1
    exact ⟨dec, res, cursor, hrest.trans (by rw [hfeed])⟩

/-! ## Feeding a frame (R93) -/

/-- Feeding `bytes` moves the decoder of `s` past a whole payload, with no `done`: only its CRC byte is to come. -/
def FeedsPayload (bytes payload : List Byte) (s : State) : Prop :=
  ∃ dec : DecUnit, feedAll bytes s = ({ s with dec := dec }, List.replicate bytes.length false)
    ∧ dec.state = .awaitCrc ∧ dec.work = payload ∧ dec.crc = crc8 payload

/-- From LEN to the end of the payload: with as many bytes to come as `dec_rem` says, they join the work and its CRC. -/
theorem feedAll_inPayload (bytes : List Byte) {s : State} (hstate : s.dec.state = .inPayload)
    (hne : bytes ≠ []) (hrem : s.dec.rem.toNat = bytes.length) :
    feedAll bytes s =
      ({ s with dec := ⟨.awaitCrc, s.dec.len, 0, s.dec.work ++ bytes, bytes.foldl crc8Byte s.dec.crc⟩ },
        List.replicate bytes.length false) := by
  induction bytes generalizing s with
  | nil => exact absurd rfl hne
  | cons b bytes ih =>
    have hsub : (s.dec.rem - 1).toNat = bytes.length := by
      rw [BitVec.toNat_sub_of_le (BitVec.le_def.mpr (by rw [hrem]; simp)), hrem]
      simp
    rw [feedAll_cons, feed_of_inPayload b hstate]
    cases bytes with
    | nil =>
      have hzero : s.dec.rem - 1 = 0 := BitVec.eq_of_toNat_eq hsub
      simp only [hzero]
      rfl
    | cons c bytes =>
      have hmore : s.dec.rem - 1 ≠ 0 := fun h => by rw [h] at hsub; simp at hsub
      rw [ih (if_neg hmore) (by simp) hsub]
      simp [List.replicate_succ]

theorem feedsPayload_frame (payload : List Byte) {s : State} (h : payload.length ≤ 255)
    (hstate : s.dec.state = .awaitStart) :
    FeedsPayload (Config.start :: BitVec.ofNat 8 payload.length :: payload) payload s := by
  unfold FeedsPayload
  rw [feedAll_cons, feed_of_awaitStart _ hstate, if_pos rfl, feedAll_cons]
  cases payload with
  | nil => exact ⟨_, rfl, rfl, rfl, rfl⟩
  | cons b payload =>
    have hlen := toNat_ofNat_length h
    have hne : BitVec.ofNat 8 (b :: payload).length ≠ 0 := fun e => by
      rw [e] at hlen; simp at hlen
    rw [feed_of_awaitLength _ rfl, if_neg hne, feedAll_inPayload _ rfl (by simp) hlen]
    exact ⟨_, rfl, rfl, rfl, rfl⟩

/-- The round trip of R97, without records: `done` on the last byte only, the payload latched, a fresh decoder. -/
theorem feedAll_frameOf {payload : List Byte} {s : State} (h : payload.length ≤ 255)
    (hstate : s.dec.state = .awaitStart) :
    feedAll (frameOf payload) s =
      ({ s with dec := .fresh, res := ⟨.frameOk, payload⟩, fldCursor := 0 },
        List.replicate (payload.length + 2) false ++ [true]) := by
  obtain ⟨dec, hfed, hcrcState, hwork, hcrc⟩ := feedsPayload_frame payload h hstate
  have hsplit : frameOf payload
      = (Config.start :: BitVec.ofNat 8 payload.length :: payload) ++ [crc8 payload] := rfl
  rw [hsplit, feedAll_append, hfed, feedAll_cons, feed_of_awaitCrc _ hcrcState]
  simp [latch, hcrc, hwork, feedAll]

/-! ## The state with another receive buffer and other records -/

/-- A feed reads and writes neither the receive buffer nor the records: so runs that differ in them agree. -/
def withRxRecords (rx : RxUnit) (records : List Result) (s : State) : State := { s with rx := rx, results := records }

theorem withRxRecords_self (s : State) : withRxRecords s.rx s.results s = s := rfl

theorem live_feed (b : Byte) (s : State) : (feed b s).1.live ↔ s.live := by simp [State.live]

theorem feed_withRxRecords (rx : RxUnit) (records : List Result) (b : Byte) (s : State) :
    feed b (withRxRecords rx records s) = (withRxRecords rx records (feed b s).1, (feed b s).2) := by
  cases hd : s.dec.state with
  | awaitStart =>
    rw [feed_of_awaitStart b hd, feed_of_awaitStart (s := withRxRecords rx records s) b hd]
    split <;> rfl
  | awaitLength =>
    rw [feed_of_awaitLength b hd, feed_of_awaitLength (s := withRxRecords rx records s) b hd]
    split <;> rfl
  | inPayload =>
    rw [feed_of_inPayload b hd, feed_of_inPayload (s := withRxRecords rx records s) b hd]
    rfl
  | awaitCrc =>
    rw [feed_of_awaitCrc b hd, feed_of_awaitCrc (s := withRxRecords rx records s) b hd]
    rfl

theorem exec_decFeed_withRxRecords (rx : RxUnit) (records : List Result) (b : Byte) (s : State) :
    exec (.decFeed b) (withRxRecords rx records s)
      = .next (withRxRecords rx (records ++ [⟨.ok, .bit (feed b s).2⟩]) (feed b s).1) := by
  show complete .ok (.bit (feed b (withRxRecords rx records s)).2) (feed b (withRxRecords rx records s)).1 = _
  rw [feed_withRxRecords]
  rfl

theorem doneRecords_injective : Function.Injective doneRecords :=
  List.map_injective_iff.mpr fun _ _ h => by simpa using h

/-- FEED_ALL (30_encoding.md R67): the decoder of `feedAll`, and a record for each `done` bit. -/
theorem runOps_feedAllOps (bytes : List Byte) (rx : RxUnit) (records : List Result) {s : State} (hl : s.live)
    (hp : s.pend = .none) :
    runOps (feedAllOps bytes) (withRxRecords rx records s)
      = .next (withRxRecords rx (records ++ doneRecords (feedAll bytes s).2) (feedAll bytes s).1) := by
  induction bytes generalizing s records with
  | nil => simp [feedAllOps, runOps, feedAll, doneRecords]
  | cons b bytes ih =>
    calc runOps (feedAllOps (b :: bytes)) (withRxRecords rx records s)
      _ = runOps (feedAllOps bytes) (withRxRecords rx (records ++ [⟨.ok, .bit (feed b s).2⟩]) (feed b s).1) :=
        runOps_cons (.decFeed b) _ _ _ hl hp (exec_decFeed_withRxRecords rx records b s)
      _ = _ := by
        rw [ih _ ((live_feed b s).mpr hl) ((feed_pend b s).trans hp), feedAll_cons]
        simp [doneRecords]

end Sys2Proof.Machine
end

section
/-! PROOFS. RECV_FRAME (30_encoding.md R67): the reads that drain the receive buffer (41_rxbuf.md R78), the loop of reads
and feeds, its host control, and its two exits. -/

namespace Sys2Proof.Machine

/-! ## Reading the pending bytes (41_rxbuf.md R78) -/

/-- The pending bytes of 10_state.md R24, of a receive unit. -/
def RxUnit.pending (rx : RxUnit) : List Byte := rx.buf.slice rx.first (rx.last - rx.first)

theorem pending_eq_rx_pending (s : State) : s.pending = s.rx.pending := rfl

theorem length_rx_pending (rx : RxUnit) : rx.pending.length = rx.last - rx.first := length_slice _ _ _

/-- The oldest pending byte stands at `rx_first`, and consuming it leaves the others pending. -/
theorem rx_pending_eq_cons {rx : RxUnit} {b : Byte} {bytes : List Byte} (h : rx.pending = b :: bytes) :
    rx.first < rx.last ∧ rx.buf.read rx.first = b ∧ (consumeRx rx).pending = bytes := by
  have hlength : bytes.length + 1 = rx.last - rx.first := by rw [← length_rx_pending, h, List.length_cons]
  have hslice : rx.buf.slice rx.first (bytes.length + 1) = b :: bytes := by rw [hlength]; exact h
  obtain ⟨hread, hrest⟩ := List.cons.inj hslice
  refine ⟨by omega, hread, ?_⟩
  unfold consumeRx RxUnit.pending
  split
  · have : bytes = [] := List.eq_nil_of_length_eq_zero (by omega)
    rw [this]
    rfl
  · rw [show rx.last - (rx.first + 1) = bytes.length by omega]
    exact hrest

/-- After its last pending byte is read the buffer is rewound (D9). -/
theorem iterate_consumeRx (n : Nat) {rx : RxUnit} (h : rx.last - rx.first = n + 1) :
    consumeRx^[n + 1] rx = { rx with first := 0, last := 0 } := by
  induction n generalizing rx with
  | zero => exact if_pos (by omega)
  | succ n ih =>
    have hmore : consumeRx rx = { rx with first := rx.first + 1 } := if_neg (by omega)
    rw [Function.iterate_succ_apply, hmore, ih (by dsimp only; omega)]

/-- The receive unit after all of its pending bytes are read. -/
def drained (rx : RxUnit) : RxUnit := if rx.pending = [] then rx else { rx with first := 0, last := 0 }

theorem iterate_consumeRx_pending (rx : RxUnit) : consumeRx^[rx.pending.length] rx = drained rx := by
  unfold drained
  split
  · rename_i hnone
    rw [hnone]
    rfl
  · rename_i hsome
    obtain ⟨n, hn⟩ := Nat.exists_eq_add_one_of_ne_zero (mt List.eq_nil_of_length_eq_zero hsome)
    rw [hn]
    exact iterate_consumeRx n ((length_rx_pending rx).symm.trans hn)

theorem drained_cursors {rx : RxUnit} (h : rx.first ≤ rx.last) : (drained rx).last = (drained rx).first := by
  unfold drained
  split
  · rename_i hnone
    have hlength := length_rx_pending rx
    rw [hnone, List.length_nil] at hlength
    omega
  · rfl

theorem setPend_of_pend_eq {s : State} {p : Pend} (h : s.pend = p) : { s with pend := p } = s := by
  subst h
  rfl

theorem exec_rxReadOne_of_pending {s : State} {b : Byte} {bytes : List Byte} (ho : s.linkOpen = true)
    (hp : s.pend = .none) (h : s.pending = b :: bytes) :
    exec .rxReadOne s = .next (withRxRecords (consumeRx s.rx) (s.results ++ [⟨.ok, .byte b⟩]) s) := by
  obtain ⟨hlt, hread, -⟩ := rx_pending_eq_cons h
  calc exec .rxReadOne s
    _ = complete .ok (.byte (s.rx.buf.read s.rx.first)) { s with rx := consumeRx s.rx, pend := .none } :=
      (requireOpen_of_open s _ ho).trans (if_pos hlt)
    _ = .next (withRxRecords (consumeRx s.rx) (s.results ++ [⟨.ok, .byte b⟩]) { s with pend := .none }) := by
      rw [hread]
      rfl
    _ = _ := by rw [setPend_of_pend_eq hp]

/-- With nothing pending the read holds (R78, 10_state.md R35). -/
theorem exec_rxReadOne_of_empty {s : State} (ho : s.linkOpen = true) (h : s.rx.last ≤ s.rx.first) :
    exec .rxReadOne s = .next { s with pend := .readOne } :=
  (requireOpen_of_open _ _ ho).trans (if_neg (by omega))

/-- The TIMER's step ends the read that holds on an empty buffer (R79). -/
theorem exec_evtTimer_of_held {s : State} (hp : s.pend = .none) (hms : s.timeoutMs ≠ 0)
    (hhas : s.params.hasReadTimeout = true) (hempty : s.rx.last = s.rx.first) :
    exec .evtTimer { s with pend := .readOne } = .next (answer .timeout .none s) := by
  have henabled : timerEnabled { s with pend := .readOne } = true :=
    (timerEnabled_iff _).mpr ⟨rfl, hempty, hms, hhas⟩
  refine (if_pos henabled).trans ?_
  show complete .timeout .none { s with pend := .none } = _
  rw [setPend_of_pend_eq hp]
  rfl

/-! ## The loop -/

theorem recvFrameOps_timeout (bytes : List Byte) :
    recvFrameOps bytes .timeout = recvFrameOps bytes .done ++ [.rxReadOne] := by simp [recvFrameOps]

theorem recvRecords_timeout (bytes : List Byte) (bits : List Bool) :
    recvRecords bytes bits .timeout = recvRecords bytes bits .done ++ [⟨.timeout, .none⟩] := by simp [recvRecords]

theorem recvRecords_cons (b : Byte) (bytes : List Byte) (d : Bool) (bits : List Bool) (exit : RecvExit) :
    recvRecords (b :: bytes) (d :: bits) exit = ⟨.ok, .byte b⟩ :: ⟨.ok, .bit d⟩ :: recvRecords bytes bits exit := rfl

/-- Reads and feeds of all that is pending: the decoder goes as under the feeds alone, and the buffer is drained. -/
theorem runOps_recvFrameOps (bytes : List Byte) {rx : RxUnit} (records : List Result) {s : State} (hl : s.live)
    (ho : s.linkOpen = true) (hp : s.pend = .none) (h : rx.pending = bytes) :
    runOps (recvFrameOps bytes .done) (withRxRecords rx records s)
      = .next (withRxRecords (consumeRx^[bytes.length] rx)
          (records ++ recvRecords bytes (feedAll bytes s).2 .done) (feedAll bytes s).1) := by
  induction bytes generalizing rx records s with
  | nil => simp [recvFrameOps, runOps, feedAll, recvRecords]
  | cons b bytes ih =>
    obtain ⟨-, -, hrest⟩ := rx_pending_eq_cons h
    have hread : exec .rxReadOne (withRxRecords rx records s)
        = .next (withRxRecords (consumeRx rx) (records ++ [⟨.ok, .byte b⟩]) s) :=
      exec_rxReadOne_of_pending ho hp h
    have hfeed := exec_decFeed_withRxRecords (consumeRx rx) (records ++ [⟨.ok, .byte b⟩]) b s
    calc runOps (recvFrameOps (b :: bytes) .done) (withRxRecords rx records s)
      _ = runOps (.decFeed b :: recvFrameOps bytes .done)
          (withRxRecords (consumeRx rx) (records ++ [⟨.ok, .byte b⟩]) s) := runOps_cons .rxReadOne _ _ _ hl hp hread
      _ = runOps (recvFrameOps bytes .done) (withRxRecords (consumeRx rx)
          (records ++ [⟨.ok, .byte b⟩] ++ [⟨.ok, .bit (feed b s).2⟩]) (feed b s).1) :=
        runOps_cons (.decFeed b) _ _ _ hl hp hfeed
      _ = _ := by
        rw [ih _ ((live_feed b s).mpr hl) ((feed_linkOpen b s).trans ho) ((feed_pend b s).trans hp) hrest,
          feedAll_cons, recvRecords_cons, List.append_assoc, List.append_assoc]
        rfl

/-! ## The host control -/

/-- One round of the loop: its read is issued, and after the feed's record the rest of it obeys the control. -/
theorem isRecvFrame_cons {last : Option Result} (hlast : recvFrameNext last = some .rxReadOne) (b : Byte)
    (bytes : List Byte) (d : Bool) (bits : List Bool) (exit : RecvExit) :
    isRecvFrame last (List.zip (recvFrameOps (b :: bytes) exit) (recvRecords (b :: bytes) (d :: bits) exit))
      = isRecvFrame (some ⟨.ok, .bit d⟩) (List.zip (recvFrameOps bytes exit) (recvRecords bytes bits exit)) := by
  simp [recvFrameOps_cons, recvRecords_cons, isRecvFrame, hlast]

theorem isRecvFrame_done (bytes : List Byte) (b : Byte) {last : Option Result}
    (hlast : recvFrameNext last = some .rxReadOne) :
    isRecvFrame last (List.zip (recvFrameOps (bytes ++ [b]) .done)
      (recvRecords (bytes ++ [b]) (List.replicate bytes.length false ++ [true]) .done)) = true := by
  induction bytes generalizing last with
  | nil => exact isRecvFrame_cons hlast b [] true [] .done
  | cons c bytes ih => exact (isRecvFrame_cons hlast c _ false _ .done).trans (ih recvFrameNext_more)

theorem isRecvFrame_timeout (bytes : List Byte) {last : Option Result}
    (hlast : recvFrameNext last = some .rxReadOne) :
    isRecvFrame last (List.zip (recvFrameOps bytes .timeout)
      (recvRecords bytes (List.replicate bytes.length false) .timeout)) = true := by
  induction bytes generalizing last with
  | nil => simp [recvFrameOps, recvRecords, isRecvFrame, hlast]
  | cons c bytes ih => exact (isRecvFrame_cons hlast c _ false _ .timeout).trans (ih recvFrameNext_more)

/-! ## The exits -/

/-- The exit on `done`: a frame that waits in the buffer. -/
theorem runOps_recvFrameOps_frameOf {payload : List Byte} {s : State} (hlength : payload.length ≤ 255)
    (hl : s.live) (ho : s.linkOpen = true) (hp : s.pend = .none) (hstate : s.dec.state = .awaitStart)
    (hpending : s.pending = frameOf payload) :
    runOps (recvFrameOps (frameOf payload) .done) s = .next
      { s with
        rx := { s.rx with first := 0, last := 0 }
        dec := .fresh
        res := ⟨.frameOk, payload⟩
        fldCursor := 0
        results := s.results
          ++ recvRecords (frameOf payload) (List.replicate (payload.length + 2) false ++ [true]) .done } := by
  have hrun := runOps_recvFrameOps (frameOf payload) s.results hl ho hp hpending
  have hdrained : consumeRx^[(frameOf payload).length] s.rx = { s.rx with first := 0, last := 0 } := by
    rw [← hpending, pending_eq_rx_pending, iterate_consumeRx_pending]
    exact if_neg (by rw [← pending_eq_rx_pending, hpending, frameOf_eq]; simp)
  rw [withRxRecords_self, hdrained, feedAll_frameOf hlength hstate] at hrun
  exact hrun

/-- The exit on TIMEOUT: after the feeds of all that is pending the next read holds, and the TIMER may fire. -/
theorem runOps_recvFrameOps_timeout {s : State} (hl : s.live) (ho : s.linkOpen = true) (hp : s.pend = .none)
    (hms : s.timeoutMs ≠ 0) (hhas : s.params.hasReadTimeout = true) (hcursors : s.rx.first ≤ s.rx.last) :
    ∃ held, runOps (recvFrameOps s.pending .timeout) s = .next held ∧ held.pend = .readOne
      ∧ exec .evtTimer held = .next
        (withRxRecords (drained s.rx)
          (s.results ++ recvRecords s.pending (feedAll s.pending s).2 .timeout) (feedAll s.pending s).1) := by
  have hrun := runOps_recvFrameOps s.pending s.results hl ho hp rfl
  obtain ⟨dec, res, cursor, hfed⟩ := feedAll_frame s.pending s
  have hdrained : consumeRx^[s.pending.length] s.rx = drained s.rx := iterate_consumeRx_pending s.rx
  rw [withRxRecords_self, hdrained, hfed] at hrun
  have hempty := drained_cursors hcursors
  rw [recvFrameOps_timeout, recvRecords_timeout, hfed, runOps_append _ _ _ _ hrun hl hp]
  refine ⟨_, runOps_cons .rxReadOne [] _ _ hl hp (exec_rxReadOne_of_empty ho hempty.le), rfl, ?_⟩
  rw [← List.append_assoc]
  exact exec_evtTimer_of_held hp hms hhas hempty

/-- Settles O53: the loop is the feeds of the pending bytes with the reads that drain the buffer; on `done` the bytes are
a frame, and on TIMEOUT the bits are those of the feeds alone. -/
theorem recvFrameDecodesOrTimesOut : Obligations.RecvFrameDecodesOrTimesOut := by
  refine ⟨fun payload s hlength hl ho hp hstate hpending => ?_,
    fun bytes s u hl ho hp hms hhas hcursors hpending hfed hrecords => ?_⟩
  · refine ⟨runOps_recvFrameOps_frameOf hlength hl ho hp hstate hpending, ?_⟩
    exact isRecvFrame_done (Config.start :: BitVec.ofNat 8 payload.length :: payload) (crc8 payload) rfl
  · subst hpending
    obtain rfl := Host.Outcome.next.inj (hfed.symm.trans (runOps_feedAllOps s.pending s.rx s.results hl hp))
    have hbits : (feedAll s.pending s).2 = List.replicate s.pending.length false :=
      doneRecords_injective (List.append_cancel_left hrecords)
    obtain ⟨held, hrun, hheld, htimer⟩ := runOps_recvFrameOps_timeout hl ho hp hms hhas hcursors
    rw [hbits] at htimer
    exact ⟨⟨held, hrun, hheld, htimer⟩, isRecvFrame_timeout s.pending rfl⟩

end Sys2Proof.Machine
end

section
/-! PROOFS. What each LINK operation does (40_link.md R68 to R75): an equation for each way an operation can end, on an open
line and on a closed one. -/

namespace Sys2Proof.Machine

/-! ## The link guard (R68) -/

theorem raise_of_no_fault (k : Fault) {s : State} (h : s.fault = []) : raise k s = .next { s with fault := [k] } := by
  rw [raise, recordFault, h, addFault_nil]

/-- The guarded operations are those that begin with `require_open()`. -/
theorem exec_of_closed {i : Instr} {s : State} (hi : needsOpenLine i) (hc : s.linkOpen = false) :
    exec i s = raise .notOpen s := by
  cases i with
  | linkWrite | linkSetTimeout | linkPulseReset | rxReadOne | rxAvailable | rxClear =>
    exact requireOpen_of_closed s _ hc
  | _ => exact hi.elim

/-- Settles O18: the guard faults before anything else happens. -/
theorem closedLineFaultsGuardedOperations : Obligations.ClosedLineFaultsGuardedOperations := by
  intro i s hi hc hfault
  rw [exec_of_closed hi hc, raise_of_no_fault .notOpen hfault]

/-! ## LINK_OPEN (R69 to R71) -/

/-- The configuration check in the numbers of 10_state.md R20. -/
theorem legalConfig_iff_toNat (baud : Word32) (parity databits stop : Byte) :
    legalConfig baud parity databits stop = true
      ↔ databits = 8 ∧ parity.toNat ≤ 2 ∧ 2 ≤ stop.toNat ∧ stop.toNat ≤ 4 ∧ baud ≠ 0 := by
  have hparity : (parity = 0 ∨ parity = 1 ∨ parity = 2) ↔ parity.toNat ≤ 2 := by bv_omega
  have hstop : (stop = 2 ∨ stop = 3 ∨ stop = 4) ↔ 2 ≤ stop.toNat ∧ stop.toNat ≤ 4 := by bv_omega
  rw [legalConfig_iff, hparity, hstop, and_assoc]

section LinkOpen

variable {s : State} {baud : Word32} {parity databits stop : Byte}

theorem execLinkOpen_of_open (ho : s.linkOpen = true) :
    execLinkOpen baud parity databits stop s = raise .doubleOpen s := by
  rw [execLinkOpen, if_pos ho]

/-- The check comes before the draw (R69): the environment is not asked. -/
theorem execLinkOpen_of_illegal (hc : s.linkOpen = false) (hillegal : ¬ legalConfig baud parity databits stop = true) :
    execLinkOpen baud parity databits stop s = complete .configError .none s := by
  rw [execLinkOpen, if_neg (ne_true_of_eq_false hc), if_neg hillegal]

theorem execLinkOpen_of_ok (hc : s.linkOpen = false) (hlegal : legalConfig baud parity databits stop = true)
    (hok : (drawOpen s).1 = .ok) :
    execLinkOpen baud parity databits stop s
      = complete .ok .none (openSuccess baud parity stop { s with outside := (drawOpen s).2.outside }) := by
  rw [← drawOpen_snd, execLinkOpen, if_neg (ne_true_of_eq_false hc), if_pos hlegal]
  split
  · rename_i s' hdraw
    rw [hdraw]
  · rename_i hne hdraw
    rw [hdraw] at hok
    exact absurd hok hne

theorem execLinkOpen_of_not_ok (hc : s.linkOpen = false) (hlegal : legalConfig baud parity databits stop = true)
    (hfailed : (drawOpen s).1 ≠ .ok) :
    execLinkOpen baud parity databits stop s
      = complete (openStatus (drawOpen s).1) .none { s with outside := (drawOpen s).2.outside } := by
  rw [← drawOpen_snd, execLinkOpen, if_neg (ne_true_of_eq_false hc), if_pos hlegal]
  split
  · rename_i hdraw
    rw [hdraw] at hfailed
    exact absurd rfl hfailed
  · rename_i hdraw
    rw [hdraw]

end LinkOpen

/-- Settles O22: the operands are legal, so the answer OK opens a fresh link, whose `cfg` holds them in its own widths. -/
theorem linkOpenMakesAFreshLink : Obligations.LinkOpenMakesAFreshLink := by
  intro s baud parity databits stop hc hdata hparity hstop hbaud hok
  have hlegal := (legalConfig_iff baud parity databits stop).mpr ⟨hdata, hparity, hstop, hbaud⟩
  rw [BitVec.ofNat_toNat, BitVec.ofNat_toNat]
  exact execLinkOpen_of_ok hc hlegal hok

/-- Settles O23: on an open line the fault; on a closed one the check, and after it the environment's answer, whose name the
status repeats. -/
theorem failedLinkOpenChangesNothing : Obligations.FailedLinkOpenChangesNothing := by
  intro s baud parity databits stop
  refine ⟨fun ho hfault => ?_, fun hc hfield => ?_, fun hc hdata hparity hlow hhigh hbaud o st hdraw hst => ?_⟩
  · exact (execLinkOpen_of_open ho).trans (raise_of_no_fault .doubleOpen hfault)
  · refine execLinkOpen_of_illegal hc fun hlegal => ?_
    obtain ⟨hdata, hparity, hlow, hhigh, hbaud⟩ := (legalConfig_iff_toNat baud parity databits stop).mp hlegal
    rcases hfield with h | h | h | h | h
    · exact h hdata
    · omega
    · omega
    · omega
    · exact hbaud h
  · have hlegal := (legalConfig_iff_toNat baud parity databits stop).mpr ⟨hdata, hparity, hlow, hhigh, hbaud⟩
    obtain ⟨hfailed, rfl⟩ : o ≠ .ok ∧ st = openStatus o := by
      rcases hst with ⟨rfl, rfl⟩ | ⟨rfl, rfl⟩ | ⟨rfl, rfl⟩ <;> exact ⟨nofun, rfl⟩
    subst hdraw
    exact execLinkOpen_of_not_ok hc hlegal hfailed

/-! ## LINK_WRITE (R72) -/

/-- Settles O24: the model's law for LINK_WRITE on an open line. -/
theorem linkWriteSendsItsBytes : Obligations.LinkWriteSendsItsBytes :=
  fun s bytes ho => execLinkWrite_eq bytes s ho

/-! ## LINK_SET_TIMEOUT, LINK_PULSE_RESET, LINK_CLOSE (R73 to R75) -/

theorem execLinkSetTimeout_of_open (ms : Word32) {s : State} (ho : s.linkOpen = true) :
    execLinkSetTimeout ms s = complete .ok .none { s with timeoutMs := ms } :=
  requireOpen_of_open s _ ho

theorem driveDtr_low_high (s : State) :
    driveDtr true (driveDtr false s) = { s with dtr := true, dtrHist := s.dtrHist ++ [false, true] } := by
  simp [driveDtr]

theorem execLinkPulseReset_of_open {s : State} (ho : s.linkOpen = true) :
    execLinkPulseReset s = complete .ok .none { s with dtr := true, dtrHist := s.dtrHist ++ [false, true] } := by
  rw [execLinkPulseReset, requireOpen_of_open s _ ho, driveDtr_low_high]

theorem execLinkClose_of_open {s : State} (ho : s.linkOpen = true) :
    execLinkClose s = complete .ok .none (drawDtr { s with linkOpen := false, rx := { s.rx with line := [] } }) := by
  rw [execLinkClose, if_pos ho]

theorem execLinkClose_of_closed {s : State} (hc : s.linkOpen = false) :
    execLinkClose s = complete .ok .none s := by
  rw [execLinkClose, if_neg (ne_true_of_eq_false hc)]

/-- Settles O26: the level that LINK_CLOSE leaves is the one it draws. -/
theorem lineControlOperationsAct : Obligations.LineControlOperationsAct :=
  fun s ho => ⟨fun ms => execLinkSetTimeout_of_open ms ho, execLinkPulseReset_of_open ho,
    Config.dtrAfterClose s.outside.draws, execLinkClose_of_open ho⟩

/-- Settles O27: there is no line to close, and only the record is left. -/
theorem linkCloseIsIdempotent : Obligations.LinkCloseIsIdempotent :=
  fun _ hc => execLinkClose_of_closed hc

end Sys2Proof.Machine
end

section
/-! PROOFS. The codec units and the line are apart (40_link.md R70, 70_reset_and_hazards.md R133, R147): what `exec` keeps of
the line in a codec operation, and of the codec units in every other. -/

namespace Sys2Proof.Machine

/-! ## The codec operations -/

/-- `t` agrees with `s` in the link, the receive path, DTR, the histories, the pending read, the refusal mark and the world
outside. -/
structure SameLine (s t : State) : Prop where
  linkOpen : t.linkOpen = s.linkOpen
  cfg : t.cfg = s.cfg
  timeoutMs : t.timeoutMs = s.timeoutMs
  dtr : t.dtr = s.dtr
  rx : t.rx = s.rx
  txHist : t.txHist = s.txHist
  dtrHist : t.dtrHist = s.dtrHist
  pend : t.pend = s.pend
  refused : t.refused = s.refused
  outside : t.outside = s.outside

theorem SameLine.refl (s : State) : SameLine s s := ⟨rfl, rfl, rfl, rfl, rfl, rfl, rfl, rfl, rfl, rfl⟩

theorem sameLine_feed (b : Byte) (s : State) : SameLine s (feed b s).1 :=
  ⟨feed_linkOpen b s, feed_cfg b s, feed_timeoutMs b s, feed_dtr b s, feed_rx b s, feed_txHist b s, feed_dtrHist b s,
    feed_pend b s, feed_refused b s, feed_outside b s⟩

/-- A record and nothing else is added to what was done before. -/
theorem sameLine_of_complete {s u t : State} {st : Status} {v : Value}
    (h : complete st v u = .next t) (hu : SameLine s u) : SameLine s t := by
  obtain rfl := (complete_next_iff st v u t).mp h
  exact ⟨hu.linkOpen, hu.cfg, hu.timeoutMs, hu.dtr, hu.rx, hu.txHist, hu.dtrHist, hu.pend, hu.refused, hu.outside⟩

theorem sameLine_of_getField {s t : State} {w : Nat} {signed : Bool} (h : getField w signed s = .next t) :
    SameLine s t := by
  rcases getField_next w signed s t h with ⟨-, -, rfl⟩ | ⟨-, -, rfl⟩ | ⟨-, rfl⟩ <;>
    exact ⟨rfl, rfl, rfl, rfl, rfl, rfl, rfl, rfl, rfl, rfl⟩

theorem exec_codecOp_sameLine {i : Instr} {s t : State} (hi : isCodecOp i) (h : exec i s = .next t) : SameLine s t := by
  cases i with
  | encode | crcRead | decResult | putU8 | putI8 | putU16 | putI16 | putU32 | putI32 =>
    exact sameLine_of_complete h (.refl s)
  | crcClear | crcStep | decReset =>
    exact sameLine_of_complete h ⟨rfl, rfl, rfl, rfl, rfl, rfl, rfl, rfl, rfl, rfl⟩
  | decFeed b => exact sameLine_of_complete h (sameLine_feed b s)
  | getU8 | getI8 | getU16 | getI16 | getU32 | getI32 => exact sameLine_of_getField h
  | _ => exact hi.elim

/-! ## Every other operation -/

/-- `t` agrees with `s` in the CRC, decoder and field units and the refusal mark. -/
structure SameCodec (s t : State) : Prop where
  crcAcc : t.crcAcc = s.crcAcc
  dec : t.dec = s.dec
  res : t.res = s.res
  fldCursor : t.fldCursor = s.fldCursor
  refused : t.refused = s.refused

theorem SameCodec.refl (s : State) : SameCodec s s := ⟨rfl, rfl, rfl, rfl, rfl⟩

theorem sameCodec_appendRx (b : Byte) (s : State) : SameCodec s (appendRx b s) :=
  ⟨appendRx_crcAcc b s, appendRx_dec b s, appendRx_res b s, appendRx_fldCursor b s, appendRx_refused b s⟩

theorem sameCodec_of_complete {s u t : State} {st : Status} {v : Value}
    (h : complete st v u = .next t) (hu : SameCodec s u) : SameCodec s t := by
  obtain rfl := (complete_next_iff st v u t).mp h
  exact ⟨hu.crcAcc, hu.dec, hu.res, hu.fldCursor, hu.refused⟩

/-- On a closed line the guard faults, which touches no codec unit; on an open one the rest of the operation decides. -/
theorem sameCodec_of_requireOpen {s t : State} {rest : StepOutcome}
    (hrest : s.linkOpen = true → rest = .next t → SameCodec s t) (h : requireOpen s rest = .next t) :
    SameCodec s t := by
  rcases requireOpen_next s t rest h with ⟨ho, hr⟩ | ⟨-, rfl⟩
  · exact hrest ho hr
  · exact ⟨rfl, rfl, rfl, rfl, rfl⟩

/-- The guarded operations that end in one way on an open line. -/
theorem sameCodec_of_guarded_complete {s u t : State} {st : Status} {v : Value}
    (h : requireOpen s (complete st v u) = .next t) (hu : SameCodec s u) : SameCodec s t :=
  sameCodec_of_requireOpen (fun _ hr => sameCodec_of_complete hr hu) h

theorem sameCodec_of_linkOpen {baud : Word32} {parity databits stop : Byte} {s t : State}
    (h : execLinkOpen baud parity databits stop s = .next t) : SameCodec s t := by
  rcases execLinkOpen_next baud parity databits stop s t h with
    ⟨-, rfl⟩ | ⟨-, -, rfl⟩ | ⟨-, -, -, rfl⟩ | ⟨-, -, -, rfl⟩ <;> exact ⟨rfl, rfl, rfl, rfl, rfl⟩

theorem sameCodec_of_linkWrite {bytes : List Byte} {s t : State} (h : execLinkWrite bytes s = .next t) :
    SameCodec s t := by
  refine sameCodec_of_requireOpen (fun ho _ => ?_) h
  rw [execLinkWrite_eq bytes s ho] at h
  cases h
  exact ⟨rfl, rfl, rfl, rfl, rfl⟩

theorem sameCodec_of_linkClose {s t : State} (h : execLinkClose s = .next t) : SameCodec s t := by
  cases hs : s.linkOpen with
  | true => exact sameCodec_of_complete ((execLinkClose_of_open hs).symm.trans h) ⟨rfl, rfl, rfl, rfl, rfl⟩
  | false => exact sameCodec_of_complete ((execLinkClose_of_closed hs).symm.trans h) (.refl s)
theorem sameCodec_of_rxReadOne {s t : State} (h : execRxReadOne s = .next t) : SameCodec s t := by
  refine sameCodec_of_requireOpen (fun _ hr => ?_) h
  split at hr
  · exact sameCodec_of_complete hr ⟨rfl, rfl, rfl, rfl, rfl⟩
  · cases hr
    exact ⟨rfl, rfl, rfl, rfl, rfl⟩

theorem sameCodec_of_evtRxDeliver {b : Byte} {s t : State} (h : execEvtRxDeliver b s = .next t) : SameCodec s t := by
  unfold execEvtRxDeliver at h
  split at h <;> cases h
  · obtain ⟨hcrc, hdec, hres, hcursor, hrefused⟩ :=
      sameCodec_appendRx b { s with rx := { s.rx with line := s.rx.line.tail } }
    exact ⟨hcrc, hdec, hres, hcursor, hrefused⟩
  · exact .refl _

theorem sameCodec_of_evtTimer {s t : State} (h : execEvtTimer s = .next t) : SameCodec s t := by
  unfold execEvtTimer at h
  split at h
  · exact sameCodec_of_complete h ⟨rfl, rfl, rfl, rfl, rfl⟩
  · cases h
    exact .refl _

theorem exec_not_codecOp_sameCodec {i : Instr} {s t : State} (hi : ¬ isCodecOp i) (h : exec i s = .next t) :
    SameCodec s t := by
  cases i with
  | linkOpen => exact sameCodec_of_linkOpen h
  | linkWrite => exact sameCodec_of_linkWrite h
  | linkSetTimeout | linkPulseReset | rxClear => exact sameCodec_of_guarded_complete h ⟨rfl, rfl, rfl, rfl, rfl⟩
  | linkClose => exact sameCodec_of_linkClose h
  | rxReadOne => exact sameCodec_of_rxReadOne h
  | rxAvailable => exact sameCodec_of_guarded_complete h (.refl s)
  | evtRxDeliver => exact sameCodec_of_evtRxDeliver h
  | evtTimer => exact sameCodec_of_evtTimer h
  | _ => exact absurd trivial hi

/-! ## The statement -/

/-- Settles O21: each side by the operations of its own kind. -/
theorem codecAndLinkAreApart : Obligations.CodecAndLinkAreApart := by
  intro i s t h
  refine ⟨fun hi => ?_, fun hi => ?_⟩
  · obtain ⟨hopen, hcfg, htimeout, hdtr, hrx, htx, hdtrHist, hpend, hrefused, houtside⟩ := exec_codecOp_sameLine hi h
    exact ⟨hopen, hcfg, htimeout, hdtr, hrx, htx, hdtrHist, hpend, hrefused, houtside⟩
  · obtain ⟨hcrc, hdec, hres, hcursor, hrefused⟩ := exec_not_codecOp_sameCodec hi h
    exact ⟨hcrc, hdec, hres, hcursor, hrefused⟩

end Sys2Proof.Machine
end

section
/-! PROOFS. The receive path, one step at a time (41_rxbuf.md R76 to R81): ENV's byte, the client's operations on the
buffer, and the READER's and the TIMER's steps where they are enabled and where they are not. -/

namespace Sys2Proof.Machine

/-! ## ENV (R76) -/

theorem envReceive_eq (b : Byte) (s : State) :
    envReceive b s = { s with rx := { s.rx with line := if s.linkOpen then s.rx.line ++ [b] else s.rx.line } } := by
  unfold envReceive
  split <;> rfl

/-- Settles O10: the step is ENV's turn, in which the line is open or closed as before the schedule moved on. -/
theorem envByteJoinsTheOpenLine : Obligations.EnvByteJoinsTheOpenLine := by
  intro s b rest hl hs
  rw [step_of_schedule_cons hl hs]
  exact congrArg Host.Outcome.next (envReceive_eq b _)

/-! ## The client's operations (R78, R80, R81) -/

/-- A byte pending at `rx_first` is read, whether or not the read had been holding. -/
theorem exec_rxReadOne_of_lt {s : State} (ho : s.linkOpen = true) (hlt : s.rx.first < s.rx.last) :
    exec .rxReadOne s
      = complete .ok (.byte (s.rx.buf.read s.rx.first)) { s with rx := consumeRx s.rx, pend := .none } :=
  (requireOpen_of_open s _ ho).trans (if_pos hlt)

/-- Settles O28: the read completes on the advanced cursors. -/
theorem readOneTakesTheOldestByte : Obligations.ReadOneTakesTheOldestByte := by
  intro s ho hlt
  rw [exec_rxReadOne_of_lt ho hlt, consumeRx_eq]
  rfl

/-- Settles O29: the law of the read that finds nothing. -/
theorem readOneHoldsOnAnEmptyBuffer : Obligations.ReadOneHoldsOnAnEmptyBuffer :=
  fun _ ho hempty => exec_rxReadOne_of_empty ho hempty

theorem exec_rxAvailable_of_open {s : State} (ho : s.linkOpen = true) :
    exec .rxAvailable s = complete .ok (.count (s.rx.last - s.rx.first)) s :=
  requireOpen_of_open s _ ho

theorem exec_rxClear_of_open {s : State} (ho : s.linkOpen = true) :
    exec .rxClear s = complete .ok .none { s with rx := { s.rx with first := 0, last := 0 } } :=
  requireOpen_of_open s _ ho

/-- Settles O30: past the guard each operation is one record. -/
theorem availableCountsAndClearDiscards : Obligations.AvailableCountsAndClearDiscards :=
  fun _ ho => ⟨exec_rxAvailable_of_open ho, exec_rxClear_of_open ho⟩

/-! ## The READER (R77) -/

/-- The head of the line leaves it and is appended. -/
theorem exec_evtRxDeliver_of_head {s : State} {b : Byte} {tail : List Byte} (ho : s.linkOpen = true)
    (hline : s.rx.line = b :: tail) :
    exec (.evtRxDeliver b) s = .next (appendRx b { s with rx := { s.rx with line := tail } }) := by
  have henabled : readerEnabled b s = true := (readerEnabled_iff b s).mpr ⟨ho, tail, hline⟩
  refine (if_pos henabled).trans ?_
  rw [hline]
  rfl

theorem exec_evtRxDeliver_of_disabled {s : State} {b : Byte} (h : ¬ readerEnabled b s = true) :
    exec (.evtRxDeliver b) s = .next s :=
  if_neg h

/-- Settles O31: the byte is written at the old `rx_last`, into the old capacity where it has room and otherwise into the
doubled one; the hypothesis leaves no overflow. -/
theorem readerAppendsTheHeadOfTheLine : Obligations.ReaderAppendsTheHeadOfTheLine := by
  intro s b tail ho hline hgrow
  refine ⟨s.rx.buf.write s.rx.last b, ?_, fun a => read_write s.rx.buf s.rx.last b a⟩
  rw [exec_evtRxDeliver_of_head ho hline]
  rcases appendRx_cases b { s with rx := { s.rx with line := tail } } with
    ⟨hroom, e⟩ | ⟨hfull, -, e⟩ | ⟨hfull, hmax, -⟩
  · rw [e, if_neg hroom]
  · rw [e, if_pos hfull]
  · exact absurd (hgrow hfull) (Nat.not_lt.mpr hmax)

/-- Settles O32: with the buffer full at its bound, appending is the fault alone. -/
theorem fullBufferDropsTheByte : Obligations.FullBufferDropsTheByte := by
  intro s b tail ho hline hfull hmax hfault
  rw [exec_evtRxDeliver_of_head ho hline]
  rcases appendRx_cases b { s with rx := { s.rx with line := tail } } with
    ⟨hroom, -⟩ | ⟨-, hlt, -⟩ | ⟨-, -, e⟩
  · exact absurd hfull hroom
  · exact absurd hlt (Nat.not_lt.mpr hmax)
  · rw [e, hfault, addFault_nil]

/-! ## The TIMER (R79) -/

theorem exec_evtTimer_of_enabled {s : State} (h : timerEnabled s = true) :
    exec .evtTimer s = complete .timeout .none { s with pend := .none } :=
  if_pos h

theorem exec_evtTimer_of_disabled {s : State} (h : ¬ timerEnabled s = true) : exec .evtTimer s = .next s :=
  if_neg h

/-- Settles O33: the hypotheses are the TIMER's conditions. -/
theorem timerEndsTheHeldRead : Obligations.TimerEndsTheHeldRead :=
  fun s hp hempty hms hhas => exec_evtTimer_of_enabled ((timerEnabled_iff s).mpr ⟨hp, hempty, hms, hhas⟩)

/-- Settles O34: each case denies one of the conditions under which the agent is enabled. -/
theorem disabledAgentsMoveNothing : Obligations.DisabledAgentsMoveNothing := by
  intro s
  refine ⟨fun b hreader => exec_evtRxDeliver_of_disabled fun henabled => ?_,
    fun htimer => exec_evtTimer_of_disabled fun henabled => ?_⟩
  · obtain ⟨ho, tail, hline⟩ := (readerEnabled_iff b s).mp henabled
    rcases hreader with hclosed | hhead
    · exact ne_true_of_eq_false hclosed ho
    · exact hhead (by rw [hline, List.head?_cons])
  · obtain ⟨hp, hempty, hms, hhas⟩ := (timerEnabled_iff s).mp henabled
    rcases htimer with hnone | hpending | hzero | hcannot
    · rw [hnone] at hp
      cases hp
    · exact hpending hempty
    · exact hms hzero
    · exact ne_true_of_eq_false hcannot hhas

end Sys2Proof.Machine
end

section
/-! PROOFS. A read held on a silent line (41_rxbuf.md R79): each step keeps it or is the TIMER's, which weak fairness brings
about. -/

namespace Sys2Proof.Machine

/-- A step of a block that takes one is the turn's. -/
theorem turnStep_next {turn : Turn} {s t : State} (h : turnStep turn s = .next t) :
    s.live ∧ takeTurn turn s = .next t := by
  unfold turnStep at h
  cases hq : quiescence s with
  | some o =>
    rw [hq] at h
    exact absurd (hq.trans (congrArg some h)) (quiescence_ne_next s t)
  | none =>
    rw [hq] at h
    exact ⟨(quiescence_eq_none_iff s).mp hq, h⟩

/-- A read holds on an open line with a timeout, on a platform that can time out; `records` have been returned. -/
structure Holding (records : List Result) (s : State) : Prop where
  isOpen : s.linkOpen = true
  held : s.pend = .readOne
  timeout : s.timeoutMs ≠ 0
  canTimeOut : s.params.hasReadTimeout = true
  returned : s.results = records

/-- The elements of `Holding`, unchanged. -/
theorem Holding.congr {records : List Result} {s t : State} (h : Holding records s) (ho : t.linkOpen = s.linkOpen)
    (hp : t.pend = s.pend) (hms : t.timeoutMs = s.timeoutMs) (hparams : t.params = s.params)
    (hresults : t.results = s.results) : Holding records t :=
  ⟨ho.trans h.isOpen, hp.trans h.held, hms ▸ h.timeout, hparams ▸ h.canTimeOut, hresults.trans h.returned⟩

theorem Holding.timerEnabled {records : List Result} {s : State} (h : Holding records s)
    (hempty : s.rx.first = s.rx.last) : timerEnabled s = true :=
  (timerEnabled_iff s).mpr ⟨h.held, hempty.symm, h.timeout, h.canTimeOut⟩

/-- The read that holds has timed out. -/
def TimedOut (records : List Result) (s : State) : Prop :=
  s.pend = .none ∧ s.results = records ++ [⟨.timeout, .none⟩]

/-- The TIMER's turn ends the read that holds on an empty buffer. -/
theorem Holding.timedOut {records : List Result} {s t : State} (h : Holding records s)
    (hempty : s.rx.first = s.rx.last) (ht : exec .evtTimer s = .next t) : TimedOut records t := by
  rw [exec_evtTimer_of_enabled (h.timerEnabled hempty)] at ht
  obtain rfl := (complete_next_iff _ _ _ _).mp ht
  exact ⟨rfl, by rw [← h.returned]⟩

/-- A step of the READER leaves the read holding, and the TIMER's ends it. -/
theorem Holding.event {records : List Result} {i : Instr} {s t : State} (h : Holding records s)
    (hempty : s.rx.first = s.rx.last) (hi : i.isEvent = true) (ht : exec i s = .next t) :
    Holding records t ∨ TimedOut records t := by
  cases i with
  | evtTimer => exact .inr (h.timedOut hempty ht)
  | evtRxDeliver b =>
    left
    by_cases henabled : readerEnabled b s = true
    · obtain ⟨ho, tail, hline⟩ := (readerEnabled_iff b s).mp henabled
      rw [exec_evtRxDeliver_of_head ho hline] at ht
      cases ht
      exact h.congr (appendRx_linkOpen b _) (appendRx_pend b _) (appendRx_timeoutMs b _) (appendRx_params b _)
        (appendRx_results b _)
    · rw [exec_evtRxDeliver_of_disabled henabled] at ht
      cases ht
      exact h
  | _ => cases hi

/-- Whoever's turn it is: the client retries the read and holds again, and ENV's byte stays on the line. -/
theorem Holding.takeTurn {records : List Result} {turn : Turn} {s t : State} (h : Holding records s)
    (hempty : s.rx.first = s.rx.last) (ht : takeTurn turn s = .next t) : Holding records t ∨ TimedOut records t := by
  cases turn with
  | client =>
    rw [takeTurn_client, clientTurn_of_held h.held, exec_rxReadOne_of_empty h.isOpen hempty.ge,
      setPend_of_pend_eq h.held] at ht
    cases ht
    exact .inl h
  | event w =>
    rw [takeTurn_event] at ht
    unfold eventTurn at ht
    split at ht
    · exact h.event hempty (decodeEvent_isEvent w _ ‹_›) ht
    · cases ht
      exact .inl h
  | envRx b =>
    cases ht
    exact .inl (h.congr (envReceive_linkOpen b s) (envReceive_pend b s) (envReceive_timeoutMs b s)
      (envReceive_params b s) (envReceive_results b s))

/-- While no step of a run times the read out, it holds. -/
theorem Holding.of_run {records : List Result} {turns : Nat → Turn} {f : Nat → State} {n m : Nat}
    (hrun : IsRun turns f) (h : Holding records (f n)) (hempty : ∀ k, n ≤ k → (f k).rx.first = (f k).rx.last)
    (hnever : ∀ k, n ≤ k → ¬ TimedOut records (f (k + 1))) (hm : n ≤ m) : Holding records (f m) := by
  induction m, hm using Nat.le_induction with
  | base => exact h
  | succ k hk ih => exact (ih.takeTurn (hempty k hk) (turnStep_next (hrun k)).2).resolve_right (hnever k hk)

/-- The event word 0xF100 is the TIMER's step (30_encoding.md R63). -/
theorem takeTurn_timer (s : State) : takeTurn (.event 0xF100) s = exec .evtTimer s :=
  (takeTurn_event _ s).trans (eventTurn_of_decodeEvent_ok (by decide) s)

/-- Settles O37: were the read never timed out it would hold for ever, so the TIMER would stay enabled; by fairness it then
takes its step, and that step times the read out. -/
theorem silentReadEventuallyTimesOut : Obligations.SilentReadEventuallyTimesOut := by
  intro turns f n hrun hfair ho hp hms hhas hempty
  have hstart : Holding (f n).results (f n) := ⟨ho, hp, hms, hhas, rfl⟩
  by_contra hnone
  have hnever : ∀ m, n ≤ m → ¬ TimedOut (f n).results (f (m + 1)) := fun m hm h => hnone ⟨m, hm, h⟩
  have hholding := fun m (hm : n ≤ m) => hstart.of_run hrun hempty hnever hm
  obtain ⟨m, hm, hturn⟩ := hfair n fun m hm => (hholding m hm).timerEnabled (hempty m hm)
  have hstep := (turnStep_next (hrun m)).2
  rw [hturn, takeTurn_timer] at hstep
  exact hnever m hm ((hholding m hm).timedOut (hempty m hm) hstep)

end Sys2Proof.Machine
end

section
/-! PROOFS. The reads of the pending bytes, one after another (41_rxbuf.md R82, 20_memory.md R47). -/

namespace Sys2Proof.Machine

theorem readRecords_cons (b : Byte) (bytes : List Byte) :
    readRecords (b :: bytes) = ⟨.ok, .byte b⟩ :: readRecords bytes := rfl

/-- As many reads as there are pending bytes: each finds the next byte, so none holds. -/
theorem runOps_reads (bytes : List Byte) {rx : RxUnit} (records : List Result) {s : State} (hl : s.live)
    (ho : s.linkOpen = true) (hp : s.pend = .none) (h : rx.pending = bytes) :
    runOps (List.replicate bytes.length .rxReadOne) (withRxRecords rx records s)
      = .next (withRxRecords (consumeRx^[bytes.length] rx) (records ++ readRecords bytes) s) := by
  induction bytes generalizing rx records with
  | nil => simp [runOps, readRecords]
  | cons b bytes ih =>
    obtain ⟨-, -, hrest⟩ := rx_pending_eq_cons h
    have hread : exec .rxReadOne (withRxRecords rx records s)
        = .next (withRxRecords (consumeRx rx) (records ++ [⟨.ok, .byte b⟩]) s) :=
      exec_rxReadOne_of_pending ho hp h
    calc runOps (List.replicate (bytes.length + 1) .rxReadOne) (withRxRecords rx records s)
      _ = runOps (List.replicate bytes.length .rxReadOne)
          (withRxRecords (consumeRx rx) (records ++ [⟨.ok, .byte b⟩]) s) := runOps_cons .rxReadOne _ _ _ hl hp hread
      _ = _ := by
        rw [ih _ hrest, readRecords_cons, List.append_assoc]
        rfl

/-- The reads of all that is pending drain the buffer and return its bytes; nothing else changes. -/
theorem runOps_reads_pending {s : State} (hl : s.live) (ho : s.linkOpen = true) (hp : s.pend = .none) :
    runOps (List.replicate s.pending.length .rxReadOne) s
      = .next (withRxRecords (drained s.rx) (s.results ++ readRecords s.pending) s) := by
  rw [← iterate_consumeRx_pending]
  exact runOps_reads s.pending s.results hl ho hp rfl

theorem drained_line (rx : RxUnit) : (drained rx).line = rx.line := by
  unfold drained
  split <;> rfl

/-- Settles O35: the reads drain the buffer, which is all they do besides their records. -/
theorem pendingBytesAreReadInOrder : Obligations.PendingBytesAreReadInOrder :=
  fun s hl ho hp => ⟨_, runOps_reads_pending hl ho hp, rfl, hp, drained_line s.rx⟩

end Sys2Proof.Machine
end

section
/-! PROOFS. Which records an operation returns (41_rxbuf.md R78): only RX_READ_ONE returns a received byte, and no operation
touches the client's program. -/

namespace Sys2Proof.Machine

/-- From `s` to `t` no received byte was returned, and the client's program is as before. -/
structure ReadsNothing (s t : State) : Prop where
  records : ∃ new, t.results = s.results ++ new ∧ new.filterMap Result.readByte = []
  program : t.outside.program = s.outside.program

/-- No record, and the same program. -/
theorem readsNothing_of_eq {s t : State} (hr : t.results = s.results) (hp : t.outside.program = s.outside.program) :
    ReadsNothing s t :=
  ⟨⟨[], by rw [hr, List.append_nil], rfl⟩, hp⟩

/-- One record that is no received byte, after effects that return none. -/
theorem readsNothing_of_complete {s u t : State} {st : Status} {v : Value} (h : complete st v u = .next t)
    (hv : Result.readByte ⟨st, v⟩ = none) (hr : u.results = s.results)
    (hp : u.outside.program = s.outside.program) : ReadsNothing s t := by
  obtain rfl := (complete_next_iff st v u t).mp h
  exact ⟨⟨[⟨st, v⟩], by rw [hr], by simp [hv]⟩, hp⟩

theorem readsNothing_of_requireOpen {s t : State} {rest : StepOutcome} (h : requireOpen s rest = .next t)
    (hrest : s.linkOpen = true → rest = .next t → ReadsNothing s t) : ReadsNothing s t := by
  rcases requireOpen_next s t rest h with ⟨ho, hr⟩ | ⟨-, rfl⟩
  · exact hrest ho hr
  · exact readsNothing_of_eq rfl rfl

theorem readByte_of_ne_byte (st : Status) {v : Value} (h : ∀ b, v ≠ .byte b) : Result.readByte ⟨st, v⟩ = none := by
  unfold Result.readByte
  split
  · exact absurd ‹_› (h _)
  · rfl

theorem readsNothing_of_getField {s t : State} {w : Nat} {signed : Bool} (h : getField w signed s = .next t) :
    ReadsNothing s t := by
  rcases getField_next w signed s t h with ⟨-, -, rfl⟩ | ⟨-, -, rfl⟩ | ⟨-, rfl⟩
  · exact ⟨⟨_, rfl, rfl⟩, rfl⟩
  · exact readsNothing_of_eq rfl rfl
  · exact readsNothing_of_eq rfl rfl

@[simp] theorem drawOpen_program (s : State) : (drawOpen s).2.outside.program = s.outside.program := by
  unfold drawOpen
  split <;> rfl

@[simp] theorem drawWrite_program (s : State) : (drawWrite s).2.outside.program = s.outside.program := by
  unfold drawWrite
  split <;> rfl

theorem readsNothing_of_linkOpen {baud : Word32} {parity databits stop : Byte} {s t : State}
    (h : execLinkOpen baud parity databits stop s = .next t) : ReadsNothing s t := by
  rcases execLinkOpen_next baud parity databits stop s t h with
    ⟨-, rfl⟩ | ⟨-, -, rfl⟩ | ⟨-, -, -, rfl⟩ | ⟨-, -, -, rfl⟩
  · exact readsNothing_of_eq rfl rfl
  · exact ⟨⟨_, rfl, rfl⟩, rfl⟩
  · exact ⟨⟨_, rfl, by simp [readByte_of_ne_byte]⟩, drawOpen_program s⟩
  · exact ⟨⟨_, rfl, rfl⟩, drawOpen_program s⟩

theorem readsNothing_of_linkWrite {bytes : List Byte} {s t : State} (h : execLinkWrite bytes s = .next t) :
    ReadsNothing s t := by
  refine readsNothing_of_requireOpen h fun ho _ => ?_
  rw [execLinkWrite_eq bytes s ho] at h
  cases h
  exact ⟨⟨_, rfl, by simp [readByte_of_ne_byte]⟩, drawWrite_program s⟩

theorem readsNothing_of_linkClose {s t : State} (h : execLinkClose s = .next t) : ReadsNothing s t := by
  cases hs : s.linkOpen with
  | true => exact readsNothing_of_complete ((execLinkClose_of_open hs).symm.trans h) rfl rfl rfl
  | false => exact readsNothing_of_complete ((execLinkClose_of_closed hs).symm.trans h) rfl rfl rfl

theorem readsNothing_of_evtRxDeliver {b : Byte} {s t : State} (h : exec (.evtRxDeliver b) s = .next t) :
    ReadsNothing s t := by
  by_cases henabled : readerEnabled b s = true
  · obtain ⟨ho, tail, hline⟩ := (readerEnabled_iff b s).mp henabled
    rw [exec_evtRxDeliver_of_head ho hline] at h
    cases h
    exact readsNothing_of_eq (appendRx_results b _) (by rw [appendRx_outside])
  · rw [exec_evtRxDeliver_of_disabled henabled] at h
    cases h
    exact readsNothing_of_eq rfl rfl

theorem readsNothing_of_evtTimer {s t : State} (h : exec .evtTimer s = .next t) : ReadsNothing s t := by
  by_cases henabled : timerEnabled s = true
  · rw [exec_evtTimer_of_enabled henabled] at h
    exact readsNothing_of_complete h rfl rfl rfl
  · rw [exec_evtTimer_of_disabled henabled] at h
    cases h
    exact readsNothing_of_eq rfl rfl

theorem exec_readsNothing {i : Instr} {s t : State} (hi : i ≠ .rxReadOne) (h : exec i s = .next t) :
    ReadsNothing s t := by
  cases i with
  | linkOpen => exact readsNothing_of_linkOpen h
  | linkWrite => exact readsNothing_of_linkWrite h
  | linkSetTimeout | linkPulseReset | rxAvailable | rxClear =>
    exact readsNothing_of_requireOpen h fun _ hr => readsNothing_of_complete hr rfl rfl rfl
  | linkClose => exact readsNothing_of_linkClose h
  | rxReadOne => exact absurd rfl hi
  | encode | crcClear | crcStep | crcRead | decReset | decResult | putU8 | putI8 | putU16 | putI16 | putU32 | putI32 =>
    exact readsNothing_of_complete h rfl rfl rfl
  | decFeed b => exact readsNothing_of_complete h rfl (feed_results b s) (by rw [feed_outside])
  | getU8 | getI8 | getU16 | getI16 | getU32 | getI32 => exact readsNothing_of_getField h
  | evtRxDeliver => exact readsNothing_of_evtRxDeliver h
  | evtTimer => exact readsNothing_of_evtTimer h

end Sys2Proof.Machine
end

section
/-! PROOFS. The FIFO law of the receive buffer (41_rxbuf.md R82): what each step moves from the line into the buffer and
from the buffer into the records, and what a list of turns moves in all. -/

namespace Sys2Proof.Machine

/-! ## The flow of bytes: line, buffer, records -/

/-- The line is open and the cursors are in order. -/
structure Receiving (s : State) : Prop where
  isOpen : s.linkOpen = true
  cursors : s.rx.first ≤ s.rx.last

/-- From `s` to `t` ENV put `sent` on the line, the READER took `appended` off it into the buffer, and the client got the
records `new`, whose bytes came out of the buffer. -/
structure Flow (sent appended : List Byte) (new : List Result) (s t : State) : Prop where
  line : s.rx.line ++ sent = appended ++ t.rx.line
  records : t.results = s.results ++ new
  buffer : s.pending ++ appended = new.filterMap Result.readByte ++ t.pending

/-- Some bytes flowed, and `t` still receives. -/
def Flows (sent : List Byte) (s t : State) : Prop := Receiving t ∧ ∃ appended new, Flow sent appended new s t

theorem Flow.trans {sent sent' appended appended' : List Byte} {new new' : List Result} {s t u : State}
    (h : Flow sent appended new s t) (h' : Flow sent' appended' new' t u) :
    Flow (sent ++ sent') (appended ++ appended') (new ++ new') s u where
  line := by rw [← List.append_assoc, h.line, List.append_assoc, h'.line, List.append_assoc]
  records := by rw [h'.records, h.records, List.append_assoc]
  buffer := by
    rw [← List.append_assoc, h.buffer, List.append_assoc, h'.buffer, List.filterMap_append, List.append_assoc]

theorem Flows.refl {s : State} (h : Receiving s) : Flows [] s s := ⟨h, [], [], by simp, by simp, by simp⟩

theorem Flows.trans {sent sent' : List Byte} {s t u : State} (h : Flows sent s t) (h' : Flows sent' t u) :
    Flows (sent ++ sent') s u := by
  obtain ⟨-, appended, new, hflow⟩ := h
  obtain ⟨hu, appended', new', hflow'⟩ := h'
  exact ⟨hu, appended ++ appended', new ++ new', hflow.trans hflow'⟩

/-! ## What moves in one change -/

theorem addFault_ne_nil (k : Fault) (f : List Fault) : addFault k f ≠ [] :=
  List.ne_nil_of_mem ((mem_addFault k k f).mpr (.inl rfl))

/-- What appending moves into the buffer, where it does not overflow. -/
theorem appendRx_moves (b : Byte) {s : State} (hs : s.rx.first ≤ s.rx.last) (hfault : (appendRx b s).fault = []) :
    (appendRx b s).rx.first ≤ (appendRx b s).rx.last ∧ (appendRx b s).rx.line = s.rx.line
      ∧ (appendRx b s).pending = s.pending ++ [b] := by
  have hslice := slice_write_end s.rx.buf b s.rx.first (s.rx.last - s.rx.first)
  rw [Nat.add_sub_cancel' hs, ← Nat.sub_add_comm hs] at hslice
  rcases appendRx_cases b s with ⟨-, e⟩ | ⟨-, -, e⟩ | ⟨-, -, e⟩
  · rw [e]
    exact ⟨Nat.le_succ_of_le hs, rfl, hslice⟩
  · rw [e]
    exact ⟨Nat.le_succ_of_le hs, rfl, hslice⟩
  · rw [e] at hfault
    exact absurd hfault (addFault_ne_nil _ _)

/-- Bytes go from the head of the line to the end of the buffer. -/
def Moves (s t : State) : Prop :=
  Receiving t ∧ ∃ appended, s.rx.line = appended ++ t.rx.line ∧ t.pending = s.pending ++ appended

theorem moves_of_rx_eq {s t : State} (hs : Receiving s) (ho : t.linkOpen = s.linkOpen) (hrx : t.rx = s.rx) :
    Moves s t := by
  refine ⟨⟨ho.trans hs.isOpen, hrx ▸ hs.cursors⟩, [], ?_, ?_⟩
  · rw [hrx, List.nil_append]
  · rw [pending_eq_rx_pending, hrx, List.append_nil, pending_eq_rx_pending]

/-- Of the changes that neither read, nor discard, nor open or close the line, the READER's alone moves bytes. -/
theorem Change.moves {i : Instr} {s t : State} (h : Change i s t) (hs : Receiving s) (hfault : t.fault = [])
    (hread : i ≠ .rxReadOne) (hclear : i ≠ .rxClear) (hclose : i ≠ .linkClose)
    (hopen : ∀ baud parity databits stop, i ≠ .linkOpen baud parity databits stop) : Moves s t := by
  cases h with
  | opened => exact absurd rfl (hopen _ _ _ _)
  | closed => exact absurd rfl hclose
  | consumed | held => exact absurd rfl hread
  | cleared => exact absurd rfl hclear
  | delivered b _ enabled =>
    obtain ⟨-, tail, hline⟩ := (readerEnabled_iff b s).mp enabled
    obtain ⟨hcursors, hrest, hpending⟩ :=
      appendRx_moves (s := { s with rx := { s.rx with line := s.rx.line.tail } }) b hs.cursors hfault
    exact ⟨⟨(appendRx_linkOpen b _).trans hs.isOpen, hcursors⟩, [b], by rw [hrest, hline]; rfl, hpending⟩
  | fed b => exact moves_of_rx_eq hs (feed_linkOpen b s) (feed_rx b s)
  | _ => exact moves_of_rx_eq hs rfl rfl

/-! ## One operation -/

/-- On an open line LINK_OPEN faults. -/
theorem fault_of_linkOpen_of_open {baud : Word32} {parity databits stop : Byte} {s t : State} (ho : s.linkOpen = true)
    (h : exec (.linkOpen baud parity databits stop) s = .next t) : t.fault ≠ [] := by
  obtain rfl := (raise_next_iff _ _ _).mp ((execLinkOpen_of_open ho).symm.trans h)
  exact addFault_ne_nil _ _

theorem consumeRx_cursors {rx : RxUnit} (h : rx.first < rx.last) : (consumeRx rx).first ≤ (consumeRx rx).last := by
  rw [consumeRx_eq]
  dsimp only
  split <;> omega

theorem consumeRx_line (rx : RxUnit) : (consumeRx rx).line = rx.line := by rw [consumeRx_eq]

/-- RX_READ_ONE moves the oldest pending byte into its record, or holds. -/
theorem flows_of_rxReadOne {s t : State} (hs : Receiving s) (h : exec .rxReadOne s = .next t) :
    Flows [] s t ∧ t.outside.program = s.outside.program := by
  cases hpending : s.pending with
  | nil =>
    have hempty : s.rx.last ≤ s.rx.first := by
      have hlength := length_rx_pending s.rx
      rw [← pending_eq_rx_pending, hpending, List.length_nil] at hlength
      omega
    rw [exec_rxReadOne_of_empty hs.isOpen hempty] at h
    cases h
    exact ⟨⟨⟨hs.isOpen, hs.cursors⟩, [], [], by simp, by simp, by simp [State.pending]⟩, rfl⟩
  | cons b bytes =>
    obtain ⟨hlt, hread, hrest⟩ := rx_pending_eq_cons hpending
    rw [exec_rxReadOne_of_lt hs.isOpen hlt, hread] at h
    obtain rfl := (complete_next_iff _ _ _ _).mp h
    refine ⟨⟨⟨hs.isOpen, ?_⟩, [], [⟨.ok, .byte b⟩], ?_, rfl, ?_⟩, rfl⟩
    · exact consumeRx_cursors hlt
    · rw [List.append_nil]
      exact (consumeRx_line s.rx).symm
    · show s.rx.pending ++ [] = [b] ++ (consumeRx s.rx).pending
      rw [hrest, List.append_nil, ← pending_eq_rx_pending, hpending, List.singleton_append]

/-- What an operation moves, if it is neither RX_CLEAR nor LINK_CLOSE and does not fault. -/
theorem exec_flows {i : Instr} {s t : State} (hs : Receiving s) (hclear : i ≠ .rxClear) (hclose : i ≠ .linkClose)
    (h : exec i s = .next t) (hfault : t.fault = []) : Flows [] s t ∧ t.outside.program = s.outside.program := by
  by_cases hread : i = .rxReadOne
  · subst hread
    exact flows_of_rxReadOne hs h
  · have hopen : ∀ baud parity databits stop, i ≠ .linkOpen baud parity databits stop := by
      rintro baud parity databits stop rfl
      exact fault_of_linkOpen_of_open hs.isOpen h hfault
    obtain ⟨u, hchange, hsame⟩ := exec_changed i s t h
    obtain ⟨hu, appended, hline, hpending⟩ :=
      hchange.moves hs (hsame.fault.symm.trans hfault) hread hclear hclose hopen
    obtain ⟨⟨new, hrecords, hbytes⟩, hprogram⟩ := exec_readsNothing hread h
    refine ⟨⟨⟨hsame.linkOpen.trans hu.isOpen, hsame.rx ▸ hu.cursors⟩, appended, new, ?_, hrecords, ?_⟩, hprogram⟩
    · rw [hsame.rx, List.append_nil, hline]
    · rw [hbytes, ← hpending, pending_eq_rx_pending t, hsame.rx]
      rfl

/-! ## One turn -/

/-- The client's program discards nothing: it holds no RX_CLEAR and no LINK_CLOSE. -/
def DiscardsNothing (program : List Transaction) : Prop :=
  ∀ x ∈ program, decodeClient x ≠ .ok .rxClear ∧ decodeClient x ≠ .ok .linkClose

/-- ENV's byte joins the line. -/
theorem flows_of_envReceive (b : Byte) {s : State} (hs : Receiving s) : Flows [b] s (envReceive b s) := by
  rw [envReceive_eq, if_pos hs.isOpen]
  exact ⟨⟨hs.isOpen, hs.cursors⟩, [], [], by simp, by simp, by simp [State.pending]⟩

/-- The client's turn takes at most a transaction off its program. -/
theorem flows_of_clientTurn {s t : State} (hs : Receiving s) (hprogram : DiscardsNothing s.outside.program)
    (h : clientTurn s = .next t) (ht : t.live) : Flows [] s t ∧ DiscardsNothing t.outside.program := by
  cases hp : s.pend with
  | readOne =>
    rw [clientTurn_of_held hp] at h
    obtain ⟨hflows, hsame⟩ := flows_of_rxReadOne hs h
    exact ⟨hflows, hsame ▸ hprogram⟩
  | none =>
    cases hx : s.outside.program with
    | nil =>
      unfold clientTurn at h
      rw [hp, hx] at h
      cases h
      exact ⟨.refl hs, hprogram⟩
    | cons x xs =>
      rw [clientTurn_of_program_cons hp hx] at h
      rw [hx] at hprogram
      obtain ⟨⟨hclear, hclose⟩, hrest⟩ := List.forall_mem_cons.mp hprogram
      cases hdecode : decodeClient x with
      | error e =>
        rw [issue_of_decodeClient_error hdecode, refuse_eq] at h
        cases h
        exact absurd ht.2 (by simp)
      | ok i =>
        rw [issue_of_decodeClient_ok hdecode] at h
        rw [hdecode] at hclear hclose
        obtain ⟨hflows, hsame⟩ := exec_flows (s := { s with outside := { s.outside with program := xs } })
          ⟨hs.isOpen, hs.cursors⟩ (fun e => hclear (congrArg _ e)) (fun e => hclose (congrArg _ e)) h ht.1
        obtain ⟨hreceiving, appended, new, hflow⟩ := hflows
        exact ⟨⟨hreceiving, appended, new, hflow.line, hflow.records, hflow.buffer⟩, hsame ▸ hrest⟩

/-- The READER's and the TIMER's turns. -/
theorem flows_of_eventTurn {w : OpWord} {s t : State} (hs : Receiving s) (h : eventTurn w s = .next t) (ht : t.live) :
    Flows [] s t ∧ t.outside.program = s.outside.program := by
  unfold eventTurn at h
  split at h
  · rename_i i hdecode
    have hevent := decodeEvent_isEvent w i hdecode
    exact exec_flows hs (by rintro rfl; cases hevent) (by rintro rfl; cases hevent) h ht.1
  · cases h
    exact ⟨.refl hs, rfl⟩

theorem flows_of_takeTurn {turn : Turn} {s t : State} (hs : Receiving s)
    (hprogram : DiscardsNothing s.outside.program) (h : takeTurn turn s = .next t) (ht : t.live) :
    Flows (sentByEnv [turn]) s t ∧ DiscardsNothing t.outside.program := by
  cases turn with
  | client => exact flows_of_clientTurn hs hprogram h ht
  | event w =>
    obtain ⟨hflows, hsame⟩ := flows_of_eventTurn hs h ht
    exact ⟨hflows, hsame ▸ hprogram⟩
  | envRx b =>
    cases h
    exact ⟨flows_of_envReceive b hs, (envReceive_outside b s).symm ▸ hprogram⟩

/-! ## Every interleaving -/

theorem runTurns_cons_next {turn : Turn} {turns : List Turn} {s t : State} (h : runTurns (turn :: turns) s = .next t) :
    ∃ u, turnStep turn s = .next u ∧ runTurns turns u = .next t := by
  rw [runTurns] at h
  split at h
  · exact ⟨_, ‹_›, h⟩
  · cases h
  · cases h

/-- A run that ends live was live all along: a faulted or refused block takes no step (60_exceptions.md R117, R118). -/
theorem live_of_runTurns {turns : List Turn} {s t : State} (h : runTurns turns s = .next t) (ht : t.live) : s.live := by
  cases turns with
  | nil =>
    cases h
    exact ht
  | cons turn turns =>
    obtain ⟨u, hstep, -⟩ := runTurns_cons_next h
    exact (turnStep_next hstep).1

theorem sentByEnv_cons (turn : Turn) (turns : List Turn) :
    sentByEnv (turn :: turns) = sentByEnv [turn] ++ sentByEnv turns :=
  List.filterMap_append (l := [turn])

theorem flows_of_runTurns {turns : List Turn} {s t : State} (hs : Receiving s)
    (hprogram : DiscardsNothing s.outside.program) (h : runTurns turns s = .next t) (ht : t.live) :
    Flows (sentByEnv turns) s t := by
  induction turns generalizing s with
  | nil =>
    cases h
    exact .refl hs
  | cons turn turns ih =>
    obtain ⟨u, hstep, hrest⟩ := runTurns_cons_next h
    obtain ⟨hflows, hprogram'⟩ := flows_of_takeTurn hs hprogram (turnStep_next hstep).2 (live_of_runTurns hrest ht)
    rw [sentByEnv_cons]
    exact hflows.trans (ih hflows.1 hprogram' hrest)

/-- Settles O36: the turns' flows add up to one flow, out of a buffer that was empty; what it appended is what was read and
what is pending, so the rest of it is what the next reads return. -/
theorem receiveBufferIsFifo : Obligations.ReceiveBufferIsFifo := by
  intro turns s t ho hfirst hlast hprogram hrun ht
  obtain ⟨hreceiving, appended, new, hline, hrecords, hbuffer⟩ :=
    flows_of_runTurns ⟨ho, (hfirst.trans hlast.symm).le⟩ hprogram hrun ht
  have hempty : s.pending = [] := by rw [State.pending, hfirst, hlast]; rfl
  have happended : appended = new.filterMap Result.readByte ++ t.pending := by rw [← hbuffer, hempty, List.nil_append]
  have hcount : appended.length - (new.filterMap Result.readByte).length = t.rx.last - t.rx.first := by
    rw [happended, List.length_append, Nat.add_sub_cancel_left]
    exact length_rx_pending t.rx
  have hrest : appended.drop (new.filterMap Result.readByte).length = t.pending := by
    rw [happended, List.drop_left]
  refine ⟨appended, new, hline, hrecords, happended, ?_, _,
    runOps_reads_pending (s := { t with pend := .none }) ht hreceiving.isOpen rfl, ?_⟩
  · rw [hcount]
    exact exec_rxAvailable_of_open hreceiving.isOpen
  · rw [hrest]
    rfl

end Sys2Proof.Machine
end

section
/-! PROOFS. The encoder (42_encoder.md R83, R84). -/

namespace Sys2Proof.Machine

/-- R83: ENCODE answers OK with its frame, out of the state it was issued in. -/
theorem exec_encode (len : Byte) (payload : List Byte) (s : State) :
    exec (.encode len payload) s = complete .ok (.bytes (frame len payload)) s := rfl

/-- The one record ENCODE adds holds its frame. -/
theorem eq_frame_of_exec_encode {s t : State} {len : Byte} {payload f : List Byte}
    (hexec : exec (.encode len payload) s = .next t) (hresults : t.results = s.results ++ [⟨.ok, .bytes f⟩]) :
    f = frame len payload := by
  rw [exec_encode] at hexec
  obtain rfl := (complete_next_iff _ _ _ _).mp hexec
  have hrecord : [(⟨.ok, .bytes (frame len payload)⟩ : Result)] = [⟨.ok, .bytes f⟩] :=
    List.append_cancel_left hresults
  cases hrecord
  rfl

/-- With as many payload bytes as LEN says, ENCODE's frame is the payload's frame of R52. -/
theorem frame_eq_frameOf {len : Byte} {payload : List Byte} (h : payload.length = len.toNat) :
    frame len payload = frameOf payload := by
  rw [frameOf, h, BitVec.ofNat_toNat, BitVec.setWidth_eq]

theorem frameOf_length (payload : List Byte) : (frameOf payload).length = payload.length + 3 := by
  simp [frameOf_eq]

theorem frameOf_getLast? (payload : List Byte) : (frameOf payload).getLast? = some (crc8 payload) :=
  List.getLast?_concat (l := Config.start :: BitVec.ofNat 8 payload.length :: payload)

/-- The payload stands in its frame between LEN and the CRC. -/
theorem frameOf_payload (payload : List Byte) : ((frameOf payload).drop 2).take payload.length = payload := by
  rw [frameOf_eq]
  exact List.take_left

/-- Settles O38: the record holds the frame, written out byte by byte. -/
theorem encodeReturnsTheFrame : Obligations.EncodeReturnsTheFrame := by
  intro s len payload _
  rw [exec_encode, complete_next_iff]
  rfl

/-- Settles O39: the recorded frame is the payload's own frame, since LEN counts the payload and is one byte; R53 and the
positions of R84 are then facts about `frameOf`. -/
theorem encodedFramesAreWellFormed : Obligations.EncodedFramesAreWellFormed := by
  intro s t len payload f hlength hexec hresults
  have hbound : payload.length ≤ 255 := by have := len.isLt; omega
  obtain rfl : f = frameOf payload := (eq_frame_of_exec_encode hexec hresults).trans (frame_eq_frameOf hlength)
  refine ⟨wellFormedFrame_frameOf hbound, frameOf_length payload, ?_, ?_⟩
  · exact congrArg some (toNat_ofNat_length hbound)
  · rw [frameOf_payload]
    exact frameOf_getLast? payload

end Sys2Proof.Machine
end

section
/-! PROOFS. The CRC function and the CRC operations (43_crc.md R85 to R91). A shift step of R85 is linear over GF(2) and
loses no bit, so the eight of them are linear and injective; the laws of R88 are these two facts folded over a list. -/

namespace Sys2Proof.Machine

/-! ## The shift step -/

/-- What a shift step adds to the shifted byte: the polynomial, if the bit shifted out is 1. -/
theorem crc8Shift_eq (a : Byte) :
    crc8Shift a = a >>> 1 ^^^ bif a.getLsbD 0 then Config.crcPolyReflected else 0 := by
  unfold crc8Shift
  cases a.getLsbD 0
  · exact BitVec.xor_zero.symm
  · rfl

/-- A shift step is linear: the polynomials that the two bytes call for add up to the one that their sum calls for. -/
theorem crc8Shift_xor (a b : Byte) : crc8Shift (a ^^^ b) = crc8Shift a ^^^ crc8Shift b := by
  have hpoly (x y : Bool) : (bif x ^^ y then Config.crcPolyReflected else 0)
      = (bif x then Config.crcPolyReflected else 0) ^^^ bif y then Config.crcPolyReflected else 0 := by
    revert x y; decide
  rw [crc8Shift_eq, crc8Shift_eq, crc8Shift_eq, BitVec.getLsbD_xor, BitVec.ushiftRight_xor_distrib, hpoly]
  ac_rfl

theorem crc8Shift_zero : crc8Shift 0 = 0 := by decide

/-- The bit shifted out is not lost: the polynomial brings it back as bit 7, which the shift left empty. -/
theorem getLsbD_crc8Shift_seven (a : Byte) : (crc8Shift a).getLsbD 7 = a.getLsbD 0 := by
  rw [crc8Shift_eq]
  cases a.getLsbD 0 <;> simp [Config.crcPolyReflected]

theorem crc8Shift_injective : Function.Injective crc8Shift := by
  intro a b h
  have hlow : a.getLsbD 0 = b.getLsbD 0 := by rw [← getLsbD_crc8Shift_seven a, h, getLsbD_crc8Shift_seven]
  have hhigh : a >>> 1 = b >>> 1 := by
    rwa [crc8Shift_eq, crc8Shift_eq, hlow, BitVec.xor_left_inj] at h
  apply BitVec.eq_of_getLsbD_eq
  intro i _
  cases i with
  | zero => exact hlow
  | succ i =>
    have hbit := congrArg (BitVec.getLsbD · i) hhigh
    simpa [Nat.add_comm] using hbit

/-! ## The byte step -/

theorem crc8Byte_eq_iterate (acc b : Byte) : crc8Byte acc b = crc8Shift^[8] (acc ^^^ b) := rfl

theorem crc8Byte_xor (a b c d : Byte) : crc8Byte (a ^^^ c) (b ^^^ d) = crc8Byte a b ^^^ crc8Byte c d := by
  have hregroup : a ^^^ c ^^^ (b ^^^ d) = a ^^^ b ^^^ (c ^^^ d) := by ac_rfl
  simp only [crc8Byte, hregroup, crc8Shift_xor]

/-- R90: a byte equal to the accumulator steps it to 0. -/
theorem crc8Byte_self (b : Byte) : crc8Byte b b = 0 := by
  rw [crc8Byte_eq_iterate, BitVec.xor_self]
  exact Function.iterate_fixed crc8Shift_zero 8

/-- The accumulators that one byte steps to one value are equal. -/
theorem crc8Byte_injective_acc (b : Byte) : Function.Injective (crc8Byte · b) :=
  fun _ _ h => (BitVec.xor_left_inj b).mp (crc8Shift_injective.iterate 8 h)

/-- The bytes that step one accumulator to one value are equal. -/
theorem crc8Byte_injective_byte (acc : Byte) : Function.Injective (crc8Byte acc) :=
  fun _ _ h => (BitVec.xor_right_inj acc).mp (crc8Shift_injective.iterate 8 h)

/-! ## The table -/

/-- R87, row by row: column `l` of row `h` is `crc8_byte(0x00, i)` for the byte `i` with high nibble `h` and low nibble
`l`. All 256 entries are compared. -/
theorem crcTable_row (h : Fin 16) :
    (crcTable.drop (16 * h)).take 16 = (List.range 16).map fun l => crc8Byte 0 (BitVec.ofNat 8 (16 * h + l)) := by
  revert h
  decide

/-- R87: entry `b` of the table stands in the row of its high nibble and the column of its low one. -/
theorem crcTable_getElem? (b : Byte) : crcTable[b.toNat]? = some (crc8Byte 0 b) := by
  have hlow : b.toNat % 16 < 16 := Nat.mod_lt _ (by decide)
  have hrow := crcTable_row ⟨b.toNat / 16, Nat.div_lt_of_lt_mul b.isLt⟩
  have hentry := congrArg (·[b.toNat % 16]?) hrow
  simpa [hlow, Nat.div_add_mod] using hentry

/-- The shift steps see the accumulator and the byte only through their XOR. -/
theorem crc8Byte_eq_zero_xor (acc b : Byte) : crc8Byte acc b = crc8Byte 0 (acc ^^^ b) :=
  congrArg crc8Shift^[8] BitVec.zero_xor.symm

/-- Settles O41: both sides depend on `acc ^ b` alone, and for accumulator 0 the table lists the results. -/
theorem crcByteIsTheTableLookup : Obligations.CrcByteIsTheTableLookup := by
  intro acc b
  rw [crc8Byte_eq_zero_xor]
  exact crcTable_getElem? (acc ^^^ b)

/-! ## The CRC of a list -/

/-- R88 law 3 from any two accumulators: folding the XOR of two lists of one length is folding each of them. -/
theorem foldl_crc8Byte_xor {l e : List Byte} (h : l.length = e.length) (a c : Byte) :
    (List.zipWith (· ^^^ ·) l e).foldl crc8Byte (a ^^^ c) = l.foldl crc8Byte a ^^^ e.foldl crc8Byte c := by
  induction l generalizing e a c with
  | nil =>
    obtain rfl := List.length_eq_zero_iff.mp h.symm
    rfl
  | cons b l ih =>
    cases e with
    | nil => cases h
    | cons d e =>
      rw [List.zipWith_cons_cons, List.foldl_cons, List.foldl_cons, List.foldl_cons, crc8Byte_xor]
      exact ih (Nat.succ.inj h) (crc8Byte a b) (crc8Byte c d)

/-- R88 law 2: the last byte of the list meets its equal in the accumulator. -/
theorem crc8_append_crc8 (l : List Byte) : crc8 (l ++ [crc8 l]) = 0 := by
  rw [crc8_append_singleton, crc8Byte_self]

/-- Settles O42: law 3 is the linearity of the fold, since the seed is the XOR of two seeds. -/
theorem crcResidueAndLinearity : Obligations.CrcResidueAndLinearity :=
  ⟨rfl, crc8_append_crc8, fun _ _ h => foldl_crc8Byte_xor h Config.crcSeed Config.crcSeed⟩

/-! ## One-bit errors -/

theorem flipBit_cons_zero (b : Byte) (l : List Byte) (k : Nat) :
    flipBit (b :: l) 0 k = (b ^^^ BitVec.twoPow 8 k) :: l := rfl

theorem flipBit_cons_succ (b : Byte) (l : List Byte) (j k : Nat) :
    flipBit (b :: l) (j + 1) k = b :: flipBit l j k := rfl

theorem xor_twoPow_ne_self (b : Byte) {k : Nat} (hk : k < 8) : b ^^^ BitVec.twoPow 8 k ≠ b := by
  intro h
  have hbit := congrArg (BitVec.getLsbD · k) h
  simp [hk] at hbit

/-- Different accumulators stay different, whatever bytes follow. -/
theorem foldl_crc8Byte_injective (l : List Byte) : Function.Injective fun acc => l.foldl crc8Byte acc := by
  induction l with
  | nil => exact Function.injective_id
  | cons b l ih => exact ih.comp (crc8Byte_injective_acc b)

/-- The bytes before the flipped one lead to one accumulator, the flipped one leads to another, and the bytes after it
keep the two apart. -/
theorem foldl_crc8Byte_flipBit_ne {l : List Byte} {j k : Nat} (hj : j < l.length) (hk : k < 8) (acc : Byte) :
    (flipBit l j k).foldl crc8Byte acc ≠ l.foldl crc8Byte acc := by
  induction l generalizing j acc with
  | nil => cases hj
  | cons b l ih =>
    cases j with
    | zero =>
      rw [flipBit_cons_zero]
      exact (foldl_crc8Byte_injective l).ne ((crc8Byte_injective_byte acc).ne (xor_twoPow_ne_self b hk))
    | succ j =>
      rw [flipBit_cons_succ]
      exact ih (Nat.lt_of_succ_lt_succ hj) (crc8Byte acc b)

/-- Settles O43: the fold of R86 starts from the seed. -/
theorem crcDetectsSingleBitErrors : Obligations.CrcDetectsSingleBitErrors :=
  fun _ _ _ hj hk => foldl_crc8Byte_flipBit_ne hj hk Config.crcSeed

/-! ## The CRC operations -/

/-- The client decoder reads the transaction that spells a well-formed operation of the client. -/
theorem decodeClient_encode {i : Instr} (hwf : i.wellFormed = true) (hevent : i.isEvent = false) :
    decodeClient (encode i) = .ok i := by
  have hop : opField (encodeWord i) ≠ 15 := by
    intro h
    have hfields := fields_of_clientWord hevent
    simp [h] at hfields
  exact (decodeClient_eq_ok_iff (encode i) i).mpr ⟨hop, decodeInvertsEncode i hwf⟩

theorem exec_crcClear (s : State) : exec .crcClear s = complete .ok .none { s with crcAcc := 0 } := rfl

theorem exec_crcStep (b : Byte) (s : State) :
    exec (.crcStep b) s = complete .ok (.crc (crc8Byte s.crcAcc b)) { s with crcAcc := crc8Byte s.crcAcc b } := rfl

theorem exec_crcRead (s : State) : exec .crcRead s = complete .ok (.crc s.crcAcc) s := rfl

/-- Settles O44: the words are those the three operations encode to, and each operation completes with its record. -/
theorem crcOperationsAct : Obligations.CrcOperationsAct := by
  refine ⟨⟨?_, fun b => ?_, ?_⟩, fun s => ⟨?_, fun b => ?_, ?_⟩, crc8Byte_self, rfl⟩
  · exact decodeClient_encode (i := .crcClear) rfl rfl
  · exact decodeClient_encode (i := .crcStep b) rfl rfl
  · exact decodeClient_encode (i := .crcRead) rfl rfl
  · exact (exec_crcClear s).trans ((complete_next_iff _ _ _ _).mpr rfl)
  · exact (exec_crcStep b s).trans ((complete_next_iff _ _ _ _).mpr rfl)
  · exact (exec_crcRead s).trans ((complete_next_iff _ _ _ _).mpr rfl)

end Sys2Proof.Machine
end

section
/-! PROOFS. The packet decoder (44_decoder.md R92 to R98): its invariants along the block's steps, its three operations, the
response classes, and what FEED_ALL makes of a frame, of a frame with a one-bit error and of noise. -/

namespace Sys2Proof.Machine

/-! ## The invariants (R94) -/

theorem decoderInv_kept : Kept fun s => DecoderInv s.dec where
  same _ _ hst hs := by rw [hst.dec]; exact hs
  change _ _ _ _ _ hc hs := hc.keeps_decoder hs
  envReceive b s hs := by rw [envReceive_dec]; exact hs

/-- Settles O16: of the changes only DEC_RESET and DEC_FEED write the decoder, and what each leaves keeps the invariants. -/
theorem everyStepKeepsTheDecoderInvariants : Obligations.EveryStepKeepsTheDecoderInvariants :=
  ⟨decoderInv_fresh, fun _ _ hs h => decoderInv_kept.step h hs⟩

/-! ## AwaitStart (R93) -/

theorem feed_start {b : Byte} {s : State} (hstate : s.dec.state = .awaitStart) (hb : b = Config.start) :
    feed b s = ({ s with dec := { s.dec with state := .awaitLength, work := [], crc := Config.crcSeed } }, false) :=
  (feed_of_awaitStart b hstate).trans (if_pos hb)

theorem feed_noise {b : Byte} {s : State} (hstate : s.dec.state = .awaitStart) (hb : b ≠ Config.start) :
    feed b s = (s, false) :=
  (feed_of_awaitStart b hstate).trans (if_neg hb)

/-! ## Feeding a frame with an error (R98 item 1) -/

/-- A CRC byte that is its payload's makes the CRC of the two together 0 (43_crc.md R88 law 2): bytes after LEN whose CRC
is not 0 end the frame in the mismatch. -/
theorem feedAll_mismatch {n : Nat} {body : List Byte} {s : State} (hn : n ≤ 255) (hlength : body.length = n + 1)
    (hcrc : crc8 body ≠ 0) (hstate : s.dec.state = .awaitStart) :
    feedAll (Config.start :: BitVec.ofNat 8 n :: body) s =
      ({ s with dec := .fresh, res := ⟨.crcMismatch, []⟩, fldCursor := 0 }, List.replicate (n + 2) false ++ [true]) := by
  obtain rfl | ⟨payload, c, rfl⟩ := List.eq_nil_or_concat' body
  · cases hlength
  obtain rfl : payload.length = n := by simpa using hlength
  have hc : c ≠ crc8 payload := by rintro rfl; exact hcrc (crc8_append_crc8 payload)
  obtain ⟨dec, hfed, hcrcState, -, hdecCrc⟩ := feedsPayload_frame payload hn hstate
  have hlatch : latch dec c = ⟨.crcMismatch, []⟩ := if_neg (by rwa [hdecCrc])
  rw [← List.cons_append, ← List.cons_append, feedAll_append, hfed, feedAll_cons, feed_of_awaitCrc _ hcrcState]
  simp [hlatch, feedAll]

/-- A bit turned over after LEN leaves START and LEN as they are. -/
theorem flipBit_frameOf (payload : List Byte) (j k : Nat) :
    flipBit (frameOf payload) (j + 2) k
      = Config.start :: BitVec.ofNat 8 payload.length :: flipBit (payload ++ [crc8 payload]) j k := rfl

theorem length_flipBit (l : List Byte) (j k : Nat) : (flipBit l j k).length = l.length := List.length_modify _ _ _

/-- A bit turned over in the payload or in the CRC byte changes the CRC of the two together, which was 0. -/
theorem crc8_flipBit_body_ne_zero (payload : List Byte) {j k : Nat} (hj : j < payload.length + 1) (hk : k < 8) :
    crc8 (flipBit (payload ++ [crc8 payload]) j k) ≠ 0 := by
  have hne := crcDetectsSingleBitErrors (payload ++ [crc8 payload]) j k (by simpa using hj) hk
  rwa [crc8_append_crc8] at hne

theorem feedAll_flipBit_frameOf {payload : List Byte} {j k : Nat} {s : State} (h : payload.length ≤ 255)
    (hj : j < payload.length + 1) (hk : k < 8) (hstate : s.dec.state = .awaitStart) :
    feedAll (flipBit (frameOf payload) (j + 2) k) s =
      ({ s with dec := .fresh, res := ⟨.crcMismatch, []⟩, fldCursor := 0 },
        List.replicate (payload.length + 2) false ++ [true]) := by
  rw [flipBit_frameOf]
  exact feedAll_mismatch h (by simp [length_flipBit]) (crc8_flipBit_body_ne_zero payload hj hk) hstate

/-! ## Feeding noise (R98 item 2) -/

theorem feedAll_noise {bytes : List Byte} {s : State} (h : Config.start ∉ bytes)
    (hstate : s.dec.state = .awaitStart) : feedAll bytes s = (s, List.replicate bytes.length false) := by
  induction bytes with
  | nil => rfl
  | cons b bytes ih =>
    have hb : b ≠ Config.start := (List.ne_of_not_mem_cons h).symm
    rw [feedAll_cons, feed_noise hstate hb, ih (List.not_mem_of_not_mem_cons h)]
    rfl

/-! ## FEED_ALL (30_encoding.md R67) -/

/-- FEED_ALL in the state it is issued in: the decoder of `feedAll`, and after the earlier records one for each `done`. -/
theorem runOps_feedAllOps_of_feedAll {bytes : List Byte} {bits : List Bool} {s t : State} (hl : s.live)
    (hp : s.pend = .none) (h : feedAll bytes s = (t, bits)) :
    runOps (feedAllOps bytes) s = .next (withRxRecords s.rx (s.results ++ doneRecords bits) t) := by
  have hrun := runOps_feedAllOps bytes s.rx s.results hl hp
  rwa [withRxRecords_self, h] at hrun

/-- Settles O48: the round trip of R97 with its records. -/
theorem encodedPayloadsDecodeToThemselves : Obligations.EncodedPayloadsDecodeToThemselves :=
  fun _ _ h hl hp hstate => runOps_feedAllOps_of_feedAll hl hp (feedAll_frameOf h hstate)

/-- Settles O49: byte `j` stands past LEN, so the decoder still ends the frame on its last byte, and the CRC of what came
after LEN is not 0. -/
theorem singleBitErrorsEndInMismatch : Obligations.SingleBitErrorsEndInMismatch := by
  intro payload j k s h hj hlt hk hl hp hstate
  obtain ⟨j, rfl⟩ := Nat.exists_eq_add_of_le' hj
  exact runOps_feedAllOps_of_feedAll hl hp (feedAll_flipBit_frameOf h (by omega) hk hstate)

/-- Settles O50: in AwaitStart the decoder stays as it is on every byte but START. -/
theorem noiseBeforeAFrameIsDiscarded : Obligations.NoiseBeforeAFrameIsDiscarded :=
  fun _ _ h hl hp hstate => runOps_feedAllOps_of_feedAll hl hp (feedAll_noise h hstate)

/-! ## The operations (R92, R93, R95) -/

theorem exec_decReset (s : State) : exec .decReset s = complete .ok .none (resetDecoder s) := rfl

theorem exec_decFeed (b : Byte) (s : State) :
    exec (.decFeed b) s = complete .ok (.bit (feed b s).2) (feed b s).1 := rfl

theorem exec_decResult (s : State) : exec .decResult s = complete .ok (resultTuple s.res) s := rfl

/-- Settles O46: the word is the one DEC_RESET encodes to, and the operation completes on the fresh decoder. -/
theorem decResetMakesAFreshDecoder : Obligations.DecResetMakesAFreshDecoder := by
  refine ⟨decodeClient_encode (i := .decReset) rfl rfl, fun s => ?_⟩
  rw [exec_decReset, complete_next_iff]
  rfl

/-- The last payload byte is the one that is fed with 1 byte to come. -/
theorem rem_sub_one_eq_zero_iff (rem : Byte) : rem - 1 = 0 ↔ rem = 1 := by bv_omega

/-- Settles O47: the words are those DEC_FEED encodes to, and each decoder state has its law. -/
theorem decFeedAdvancesTheDecoder : Obligations.DecFeedAdvancesTheDecoder := by
  refine ⟨fun b => decodeClient_encode (i := .decFeed b) rfl rfl, fun s b => ?_⟩
  rw [exec_decFeed, complete_next_iff]
  cases hd : s.dec.state with
  | awaitStart =>
    by_cases hb : b = 0xD5
    · simp only [feed_start hd hb, if_pos hb]
      rfl
    · simp only [feed_noise hd hb, if_neg hb]
  | awaitLength =>
    obtain rfl | hb := eq_or_ne b 0
    · rw [feed_of_awaitLength 0 hd]
      rfl
    · simp only [feed_of_awaitLength b hd, if_neg hb]
  | inPayload => simp only [feed_of_inPayload b hd, rem_sub_one_eq_zero_iff]
  | awaitCrc =>
    rw [feed_of_awaitCrc b hd]
    rfl

/-- R95: the code is the first byte of a good frame's payload. -/
theorem responseCode_eq (r : DecResult) :
    responseCode r = if r.status = .frameOk then r.payload.head? else none := by
  obtain ⟨status, payload⟩ := r
  cases status with
  | none | crcMismatch => rfl
  | frameOk => cases payload <;> rfl

/-- Settles O51: the record holds the tuple of R95, and nothing but the record is written. -/
theorem decResultReturnsTheLatchedResult : Obligations.DecResultReturnsTheLatchedResult := by
  intro s
  rw [exec_decResult, complete_next_iff, resultTuple, responseCode_eq]

/-! ## The response classes (R96) -/

theorem classOfCode_number (code : Byte) :
    (classOfCode code).number = if 0x80 ≤ code.toNat ∧ code.toNat ≤ 0x85 then code.toNat - 0x80 + 3 else 9 := by
  by_cases h : 0x80 ≤ code.toNat ∧ code.toNat ≤ 0x85
  · obtain rfl | rfl | rfl | rfl | rfl | rfl : code = 0x80 ∨ code = 0x81 ∨ code = 0x82 ∨ code = 0x83 ∨ code = 0x84
        ∨ code = 0x85 := by bv_omega
    all_goals rfl
  · have hother : classOfCode code = .protocolViolation := by
      unfold classOfCode
      repeat rw [if_neg (by bv_omega)]
    rw [hother, if_neg h]
    rfl

/-- Settles O52: a good frame with a code has the class of its code. -/
theorem responsesClassifyAsTabled : Obligations.ResponsesClassifyAsTabled :=
  fun _ => ⟨rfl, rfl, rfl, classOfCode_number⟩

end Sys2Proof.Machine
end

section
/-! PROOFS. The field operations (45_fields.md R99 to R113): what a PUT returns, and each of the three ways a GET can end. -/

namespace Sys2Proof.Machine

/-! ## The operations of a type (R102 to R113) -/

theorem FieldType.width_pos (T : FieldType) : 0 < T.width := by cases T <;> decide

theorem exec_putOp (T : FieldType) (v : Int) (s : State) : exec (T.putOp v) s = putField T.width v s := by
  cases T <;> rfl

theorem exec_getOp (T : FieldType) (s : State) : exec T.getOp s = getField T.width T.signed s := by
  cases T <;> rfl

theorem length_responseData (r : DecResult) : (responseData r).length = r.payload.length - 1 := List.length_drop

/-! ## PUT: the little-endian pattern of an integer (R99) -/

theorem ofNat_unsignedPart (v : Int) {n : Nat} (h : 8 ≤ n) : BitVec.ofNat 8 (unsignedPart v n) = BitVec.ofInt 8 v := by
  apply BitVec.eq_of_toNat_eq
  have hdvd : ((2 ^ 8 : Nat) : Int) ∣ ((2 ^ n : Nat) : Int) := Int.natCast_dvd_natCast.mpr (Nat.pow_dvd_pow 2 h)
  have hmod := Int.emod_emod_of_dvd v hdvd
  have hnonneg := Int.emod_nonneg v (b := ((2 ^ n : Nat) : Int)) (by positivity)
  rw [BitVec.toNat_ofNat, BitVec.toNat_ofInt, unsignedPart]
  omega

theorem unsignedPart_div_256 (v : Int) (n : Nat) : unsignedPart v (n + 8) / 256 = unsignedPart (v / 256) n := by
  have hpow : ((2 ^ (n + 8) : Nat) : Int) = 256 * (2 ^ n : Nat) := by push_cast; ring
  have hdiv : v % (256 * (2 ^ n : Nat)) / 256 = v / 256 % (2 ^ n : Nat) := by
    rw [Int.emod_def, Int.emod_def, Int.ediv_ediv_of_nonneg (by norm_num), mul_assoc]
    omega
  rw [unsignedPart, unsignedPart, hpow, ← hdiv]
  omega

/-- The first byte of a pattern is the integer's lowest, and the others are the pattern of what is above it. -/
theorem put_succ (w : Nat) (v : Int) : put (w + 1) v = BitVec.ofInt 8 v :: put w (v / 256) := by
  rw [put, leBytes, Nat.mul_succ, ofNat_unsignedPart v (by omega), unsignedPart_div_256, put]

theorem put_eq_map_range (w : Nat) (v : Int) :
    put w v = (List.range w).map fun k => BitVec.ofInt 8 (v / 256 ^ k) := by
  induction w generalizing v with
  | zero => rfl
  | succ w ih =>
    have hbyte (k : Nat) : v / 256 / 256 ^ k = v / 256 ^ (k + 1) := by
      rw [Int.ediv_ediv_of_nonneg (by norm_num), pow_succ']
    simp [put_succ, ih, hbyte, List.range_succ_eq_map]

/-- Settles O54: every PUT answers with the pattern of its operand, of its type's width. -/
theorem putReturnsLittleEndianBytes : Obligations.PutReturnsLittleEndianBytes := by
  intro T v s _
  rw [exec_putOp, putField_eq, put_eq_map_range]

/-! ## GET: the three ways it can end (R100, R121) -/

theorem getField_of_no_frame (w : Nat) (signed : Bool) {s : State} (h : s.res.status ≠ .frameOk) :
    getField w signed s = raise .noFrame s := if_neg h

theorem getField_of_underrun {w : Nat} (signed : Bool) {s : State} (hgood : s.res.status = .frameOk)
    (hshort : s.res.payload.length - 1 < s.fldCursor.toNat + w) :
    getField w signed s = raise .fieldUnderrun s := by
  rw [← length_responseData] at hshort
  rw [getField, if_pos hgood, if_pos hshort]

theorem getField_of_inside {w : Nat} (signed : Bool) {s : State} (hgood : s.res.status = .frameOk)
    (hinside : s.fldCursor.toNat + w ≤ s.res.payload.length - 1) :
    getField w signed s = .next
      { s with
        fldCursor := s.fldCursor + BitVec.ofNat 8 w
        results := s.results
          ++ [⟨.ok, .int (fieldValue signed (((responseData s.res).drop s.fldCursor.toNat).take w))⟩] } := by
  rw [← length_responseData] at hinside
  rw [getField, if_pos hgood, if_neg hinside.not_gt, complete_next_iff]

/-- Settles O56: the frame is looked at first, and each lack raises its own fault. -/
theorem getFaultsWithoutData : Obligations.GetFaultsWithoutData := by
  intro T s hfault
  rw [exec_getOp]
  constructor
  · intro hbad
    rw [getField_of_no_frame _ _ hbad, raise_of_no_fault .noFrame hfault]
  · intro hgood hshort
    rw [getField_of_underrun _ hgood hshort, raise_of_no_fault .fieldUnderrun hfault]

/-! ## The number a field spells (R100) -/

/-- The first `w` bytes spell the sum of their place values; a place past the end counts 0. -/
theorem leNat_take_eq_sum (w : Nat) (bytes : List Byte) :
    leNat (bytes.take w) = ((List.range w).map fun k => (bytes.getD k 0).toNat * 256 ^ k).sum := by
  induction w generalizing bytes with
  | zero => rfl
  | succ w ih =>
    cases bytes with
    | nil => simp [leNat]
    | cons b bs =>
      have hplace (k : Nat) (b : Byte) : b.toNat * 256 ^ (k + 1) = 256 * (b.toNat * 256 ^ k) := by ring
      simp [leNat, ih, List.range_succ_eq_map, Function.comp_def, hplace, List.sum_map_mul_left]

/-- The two's-complement reading by size: the sign bit is set from `2^(n-1)` on. -/
theorem signedReading_eq {p n : Nat} (hn : 0 < n) (hp : p < 2 ^ n) :
    signedReading p n = if 2 ^ (n - 1) ≤ p then (p : Int) - 2 ^ n else p := by
  have hsign : p.testBit (n - 1) = decide (2 ^ (n - 1) ≤ p) := by
    by_cases h : 2 ^ (n - 1) ≤ p
    · rw [decide_eq_true h]
      exact Nat.testBit_of_two_pow_le_and_two_pow_add_one_gt h (by rwa [Nat.sub_add_cancel hn])
    · rw [decide_eq_false h]
      exact Nat.testBit_lt_two_pow (by omega)
  simp [signedReading, hsign]

theorem fieldValue_eq (signed : Bool) {bytes : List Byte} (h : 0 < bytes.length) :
    fieldValue signed bytes
      = if signed = true ∧ 2 ^ (8 * bytes.length - 1) ≤ leNat bytes then (leNat bytes : Int) - 2 ^ (8 * bytes.length)
        else leNat bytes := by
  have hlt : leNat bytes < 2 ^ (8 * bytes.length) := by
    rw [Nat.pow_mul]
    exact leNat_lt bytes
  cases signed with
  | false => simp [fieldValue]
  | true => simp [fieldValue, signedReading_eq (Nat.mul_pos (by norm_num) h) hlt]

/-- Position `k` of the data from a cursor on, as a position of the payload: the response code stands before the data. -/
theorem getD_drop_responseData (r : DecResult) (cursor k : Nat) :
    ((responseData r).drop cursor).getD k 0 = r.payload.getD (1 + cursor + k) 0 := by
  rw [responseData, List.drop_drop, List.getD_eq_getElem?_getD, List.getD_eq_getElem?_getD, List.getElem?_drop]

/-- Settles O55: the field's bytes are those of the payload from after the response code and the cursor on, and a payload
of 255 bytes ends before a byte's cursor wraps. -/
theorem getReadsTheFieldAtTheCursor : Obligations.GetReadsTheFieldAtTheCursor := by
  intro T s hgood hinside
  have hpos := T.width_pos
  constructor
  · have hdata : T.width ≤ ((responseData s.res).drop s.fldCursor.toNat).length := by
      rw [List.length_drop, length_responseData]
      omega
    have hlength := List.length_take_of_le hdata
    rw [exec_getOp, getField_of_inside _ hgood hinside, fieldValue_eq _ (by omega), hlength, leNat_take_eq_sum]
    simp only [getD_drop_responseData]
  · intro hshort
    rw [BitVec.toNat_add, BitVec.toNat_ofNat]
    omega

/-! ## The round trip (R101) -/

/-- A response field reads as the operand that the same bytes spell in the byte form. -/
theorem operandsOfBytes_field (signed : Bool) (bytes : List Byte) :
    operandsOfBytes (.field bytes.length signed) bytes = some [fieldValue signed bytes] := by
  simp [operandsOfBytes, fieldValue]

theorem operandsOfBytes_put {T : FieldType} {v : Int} (h : T.holds v) :
    operandsOfBytes (.field T.width T.signed) (put T.width v) = some [v] := by
  unfold FieldType.holds at h
  cases hs : T.signed with
  | false =>
    rw [hs, if_neg Bool.false_ne_true] at h
    exact operandsOfBytes_unsigned T.width (by exact_mod_cast h)
  | true =>
    rw [hs, if_pos rfl] at h
    exact operandsOfBytes_signed T.width T.width_pos h

theorem fieldValue_put {T : FieldType} {v : Int} (h : T.holds v) : fieldValue T.signed (put T.width v) = v := by
  have hread := operandsOfBytes_field T.signed (put T.width v)
  rw [length_put, operandsOfBytes_put h] at hread
  simpa using hread.symm

/-- Settles O57: the field lies inside the data, its bytes are the pattern of the value, and that reads as the value. -/
theorem fieldsReadBack : Obligations.FieldsReadBack := by
  intro T v s rest hv hgood hdata
  have hpos := T.width_pos
  have hinside : s.fldCursor.toNat + T.width ≤ s.res.payload.length - 1 := by
    have hlength := congrArg List.length hdata
    simp only [List.length_drop, List.length_append, length_put] at hlength
    omega
  rw [exec_getOp, getField_of_inside _ hgood hinside, responseData, hdata, List.take_left' (length_put _ _),
    fieldValue_put hv]

end Sys2Proof.Machine
end

section
/-! PROOFS. Faults and quiescence (60_exceptions.md R116 to R118): how the step of a faulted or refused block ends, and
the situations in which an operation can add a fault kind. -/

namespace Sys2Proof.Machine

/-! ## Quiescence (R117, R118) -/

theorem quiescence_of_faulted {s : State} {k : Fault} {ks : List Fault} (h : s.fault = k :: ks) :
    quiescence s = some (.fault k) := by
  rw [quiescence, h]

theorem quiescence_of_refused {s : State} (hfault : s.fault = []) (hrefused : s.refused = true) :
    quiescence s = some (.refused .noOperation) := by
  rw [quiescence, hfault, hrefused]
  rfl

/-- A quiescent block's step does not look at the schedule. -/
theorem step_of_quiescent {s : State} {o : StepOutcome} (h : quiescence s = some o) : step s = o := by
  rw [step, blockStep, h]

/-- Settles O11: the block is quiescent, with the first kind or else with the refusal. -/
theorem quiescentBlockStops : Obligations.QuiescentBlockStops :=
  fun _ => ⟨fun _ _ hfault => step_of_quiescent (quiescence_of_faulted hfault),
    fun hfault hrefused => step_of_quiescent (quiescence_of_refused hfault hrefused)⟩

/-! ## The ways in which an operation leaves the fault set (R116) -/

/-- Each fault kind that `t` has over `s` is in the situation that the table gives it, for the operation `i` on `s`. -/
def FaultsTabled (i : Instr) (s t : State) : Prop := ∀ k, k ∈ t.fault → k ∉ s.fault → raisedAsTabled k i s

theorem faultsTabled_of_fault_eq {i : Instr} {s t : State} (h : t.fault = s.fault) : FaultsTabled i s t :=
  fun _ hk hnew => absurd (h ▸ hk) hnew

/-- The one kind that raising adds is the one to account for. -/
theorem faultsTabled_of_addFault {i : Instr} {s t : State} {k : Fault} (htabled : raisedAsTabled k i s)
    (h : t.fault = addFault k s.fault) : FaultsTabled i s t := by
  intro j hj hnew
  rw [h, mem_addFault] at hj
  obtain rfl := hj.resolve_right hnew
  exact htabled

theorem faultsTabled_of_complete {i : Instr} {s u t : State} {st : Status} {v : Value} (h : complete st v u = .next t)
    (hu : u.fault = s.fault) : FaultsTabled i s t := by
  obtain rfl := (complete_next_iff st v u t).mp h
  exact faultsTabled_of_fault_eq hu

/-- A guarded operation adds F_NOT_OPEN on a closed line (R68); on an open one the rest of it decides. -/
theorem faultsTabled_of_requireOpen {i : Instr} {s t : State} {rest : StepOutcome} (hi : needsOpenLine i)
    (h : requireOpen s rest = .next t) (hrest : s.linkOpen = true → rest = .next t → FaultsTabled i s t) :
    FaultsTabled i s t := by
  rcases requireOpen_next s t rest h with ⟨ho, hr⟩ | ⟨hc, rfl⟩
  · exact hrest ho hr
  · exact faultsTabled_of_addFault (k := .notOpen) ⟨hc, hi⟩ rfl

/-! ## The operations that can fault, or that end in more than one way -/

theorem faultsTabled_of_linkOpen {baud : Word32} {parity databits stop : Byte} {s t : State}
    (h : execLinkOpen baud parity databits stop s = .next t) :
    FaultsTabled (.linkOpen baud parity databits stop) s t := by
  rcases execLinkOpen_next baud parity databits stop s t h with
    ⟨ho, rfl⟩ | ⟨-, -, rfl⟩ | ⟨-, -, -, rfl⟩ | ⟨-, -, -, rfl⟩
  · exact faultsTabled_of_addFault (k := .doubleOpen) ⟨ho, baud, parity, databits, stop, rfl⟩ rfl
  all_goals exact faultsTabled_of_fault_eq rfl

theorem faultsTabled_of_linkWrite {bytes : List Byte} {s t : State} (h : execLinkWrite bytes s = .next t) :
    FaultsTabled (.linkWrite bytes) s t := by
  refine faultsTabled_of_requireOpen trivial h fun ho _ => ?_
  rw [execLinkWrite_eq bytes s ho] at h
  cases h
  exact faultsTabled_of_fault_eq rfl

theorem faultsTabled_of_linkClose {s t : State} (h : execLinkClose s = .next t) : FaultsTabled .linkClose s t := by
  cases hs : s.linkOpen with
  | true => exact faultsTabled_of_complete ((execLinkClose_of_open hs).symm.trans h) (drawDtr_fault _)
  | false => exact faultsTabled_of_complete ((execLinkClose_of_closed hs).symm.trans h) rfl

theorem faultsTabled_of_rxReadOne {s t : State} (h : execRxReadOne s = .next t) : FaultsTabled .rxReadOne s t := by
  refine faultsTabled_of_requireOpen trivial h fun _ hr => ?_
  split at hr
  · exact faultsTabled_of_complete hr rfl
  · cases hr
    exact faultsTabled_of_fault_eq rfl

/-- Taking the byte off the line changes neither the cursors nor the capacity that decide whether it overflows (R77). -/
theorem faultsTabled_of_evtRxDeliver {b : Byte} {s t : State} (h : exec (.evtRxDeliver b) s = .next t) :
    FaultsTabled (.evtRxDeliver b) s t := by
  by_cases henabled : readerEnabled b s = true
  · obtain ⟨ho, tail, hline⟩ := (readerEnabled_iff b s).mp henabled
    rw [exec_evtRxDeliver_of_head ho hline] at h
    cases h
    rcases appendRx_cases b { s with rx := { s.rx with line := tail } } with
      ⟨-, e⟩ | ⟨-, -, e⟩ | ⟨hfull, hmax, e⟩ <;> rw [e]
    · exact faultsTabled_of_fault_eq rfl
    · exact faultsTabled_of_fault_eq rfl
    · exact faultsTabled_of_addFault (k := .rxOverflow) ⟨hfull, hmax, b, rfl⟩ rfl
  · rw [exec_evtRxDeliver_of_disabled henabled] at h
    cases h
    exact faultsTabled_of_fault_eq rfl

theorem faultsTabled_of_evtTimer {s t : State} (h : exec .evtTimer s = .next t) : FaultsTabled .evtTimer s t := by
  by_cases henabled : timerEnabled s = true
  · exact faultsTabled_of_complete ((exec_evtTimer_of_enabled henabled).symm.trans h) rfl
  · rw [exec_evtTimer_of_disabled henabled] at h
    cases h
    exact faultsTabled_of_fault_eq rfl

/-- A GET adds F_NO_FRAME without a good frame and F_FIELD_UNDERRUN past the end of a good one's data (R100). -/
theorem faultsTabled_of_getOp (T : FieldType) {s t : State} (h : exec T.getOp s = .next t) :
    FaultsTabled T.getOp s t := by
  rw [exec_getOp] at h
  rcases getField_next T.width T.signed s t h with ⟨-, -, rfl⟩ | ⟨hgood, hshort, rfl⟩ | ⟨hbad, rfl⟩
  · exact faultsTabled_of_fault_eq rfl
  · rw [length_responseData] at hshort
    exact faultsTabled_of_addFault (k := .fieldUnderrun) ⟨hgood, T, rfl, hshort⟩ rfl
  · exact faultsTabled_of_addFault (k := .noFrame) ⟨hbad, T, rfl⟩ rfl

/-! ## The statement -/

theorem exec_faultsTabled {i : Instr} {s t : State} (h : exec i s = .next t) : FaultsTabled i s t := by
  cases i with
  | linkOpen => exact faultsTabled_of_linkOpen h
  | linkWrite => exact faultsTabled_of_linkWrite h
  | linkSetTimeout | linkPulseReset | rxAvailable | rxClear =>
    exact faultsTabled_of_requireOpen trivial h fun _ hr => faultsTabled_of_complete hr rfl
  | linkClose => exact faultsTabled_of_linkClose h
  | rxReadOne => exact faultsTabled_of_rxReadOne h
  | encode | crcClear | crcStep | crcRead | decReset | decResult | putU8 | putI8 | putU16 | putI16 | putU32 | putI32 =>
    exact faultsTabled_of_complete h rfl
  | decFeed b => exact faultsTabled_of_complete h (feed_fault b s)
  | getU8 => exact faultsTabled_of_getOp .u8 h
  | getI8 => exact faultsTabled_of_getOp .i8 h
  | getU16 => exact faultsTabled_of_getOp .u16 h
  | getI16 => exact faultsTabled_of_getOp .i16 h
  | getU32 => exact faultsTabled_of_getOp .u32 h
  | getI32 => exact faultsTabled_of_getOp .i32 h
  | evtRxDeliver => exact faultsTabled_of_evtRxDeliver h
  | evtTimer => exact faultsTabled_of_evtTimer h

/-- Settles O17: every operation that answers adds fault kinds only as tabled. -/
theorem faultsAreRaisedAsTabled : Obligations.FaultsAreRaisedAsTabled :=
  fun _ _ _ k h hk hnew => exec_faultsTabled h k hk hnew

end Sys2Proof.Machine
end
